-- ==== Sys2Proof/Word.lean ====
section
/-! DEFINITION. The widths of the block's values (00_scope.md R5, R7, R8): bytes, 16-bit words, 12-bit addresses, nibbles. -/

namespace Sys2Proof

/-- An 8-bit value: a general register, a timer, a memory byte (R5). -/
abbrev Byte := BitVec 8

/-- A 16-bit value: the program counter, the index register, an instruction word (R5). -/
abbrev Word := BitVec 16

/-- The 12-bit address field `nnn` (30_encoding.md R71). -/
abbrev Addr12 := BitVec 12

/-- A 4-bit field used as a number: a row count or an ignored nibble (R7, R71). -/
abbrev Nibble := Fin 16

/-- A register index, 0x0 to 0xF; every value names a register (10_state.md R21). -/
abbrev RegIdx := Fin 16

end Sys2Proof
end

