-- ==== Sys2Proof/Syntax.lean ====
section
/-! DEFINITION. The instructions: one constructor per row of spec/opcode_table.json (30_encoding.md R76). -/

namespace Sys2Proof

/-- The 35 instructions of R76, with the fields of R71 each one uses. -/
inductive Instr where
  /-- `00E0` clear display (43_display.md R150). -/
  | cls
  /-- `00EE` return from subroutine (41_flow.md R114). -/
  | ret
  /-- `0nnn` machine-code routine call, an unrecognized word (41_flow.md R110). -/
  | sys (nnn : Addr12)
  /-- `1nnn` jump (R112). -/
  | jp (nnn : Addr12)
  /-- `2nnn` call subroutine (R113). -/
  | call (nnn : Addr12)
  /-- `3xnn` skip if register equals immediate (R115). -/
  | seImm (x : RegIdx) (nn : Byte)
  /-- `4xnn` skip if register does not equal immediate (R116). -/
  | sneImm (x : RegIdx) (nn : Byte)
  /-- `5xy_` skip if registers are equal (R117); `low` is the ignored nibble of 30_encoding.md R81. -/
  | seReg (x y : RegIdx) (low : Nibble)
  /-- `6xnn` load immediate (42_alu.md R132). -/
  | ldImm (x : RegIdx) (nn : Byte)
  /-- `7xnn` add immediate (R133). -/
  | addImm (x : RegIdx) (nn : Byte)
  /-- `8xy0` register move (R134). -/
  | ldReg (x y : RegIdx)
  /-- `8xy1` bitwise OR (R135). -/
  | orReg (x y : RegIdx)
  /-- `8xy2` bitwise AND (R136). -/
  | andReg (x y : RegIdx)
  /-- `8xy3` bitwise XOR (R137). -/
  | xorReg (x y : RegIdx)
  /-- `8xy4` add registers with carry (R138). -/
  | addReg (x y : RegIdx)
  /-- `8xy5` subtract X - Y (R139). -/
  | sub (x y : RegIdx)
  /-- `8xy6` shift right by one (R141). -/
  | shr (x y : RegIdx)
  /-- `8xy7` subtract Y - X (R140). -/
  | subn (x y : RegIdx)
  /-- `8xyE` shift left by one (R142). -/
  | shl (x y : RegIdx)
  /-- `9xy_` skip if registers are not equal (41_flow.md R118); `low` is the ignored nibble of R81. -/
  | sneReg (x y : RegIdx) (low : Nibble)
  /-- `Annn` load index (44_index_memory.md R160). -/
  | ldI (nnn : Addr12)
  /-- `Bnnn` jump with offset V0 (41_flow.md R119). -/
  | jpV0 (nnn : Addr12)
  /-- `Cxnn` random byte AND immediate (42_alu.md R143). -/
  | rnd (x : RegIdx) (nn : Byte)
  /-- `Dxyn` draw sprite (43_display.md R151). -/
  | drw (x y : RegIdx) (n : Nibble)
  /-- `Ex9E` skip if key pressed (45_timers_keys.md R174). -/
  | skp (x : RegIdx)
  /-- `ExA1` skip if key not pressed (R175). -/
  | sknp (x : RegIdx)
  /-- `Fx07` load register from delay timer (R170). -/
  | ldVxDt (x : RegIdx)
  /-- `Fx0A` wait for key (R176). -/
  | ldVxK (x : RegIdx)
  /-- `Fx15` load delay timer (R172). -/
  | ldDtVx (x : RegIdx)
  /-- `Fx18` load sound timer (R173). -/
  | ldStVx (x : RegIdx)
  /-- `Fx1E` add register to index (44_index_memory.md R161). -/
  | addIVx (x : RegIdx)
  /-- `Fx29` load index with glyph address (R162). -/
  | ldFVx (x : RegIdx)
  /-- `Fx33` store BCD digits (R163). -/
  | ldBVx (x : RegIdx)
  /-- `Fx55` register dump (R164). -/
  | ldMemVx (x : RegIdx)
  /-- `Fx65` register load (R165). -/
  | ldVxMem (x : RegIdx)
  deriving DecidableEq, Repr

end Sys2Proof
end

