-- ==== Sys2Proof/Decode.lean ====
section
/-! DEFINITION. The decoder, total on words and on bytes (30_encoding.md R70 to R82), and after it the encoder written from the
same map (R76). -/

namespace Sys2Proof

/-- What the decoder answers for a word: one of the instructions, or `Unknown(w)` (R72). A SYS word is answered as its
instruction, whose meaning is that of an unrecognized word (R77, 41_flow.md R110). -/
inductive Decoded where
  | known (i : Instr)
  | unknown (w : Word)
  deriving DecidableEq, Repr

/-- Why a list of bytes holds no instruction. Both are plain answers of the decoder and change nothing (safe). -/
inductive DecodeError where
  /-- Fewer than the two bytes every instruction has (R70). -/
  | truncated
  /-- An unassigned word of family 8, E or F (R78, R79, R80). -/
  | unknownWord (w : Word)
  deriving DecidableEq, Repr

/-- `hi || lo`: the byte at the lower address holds bits 15 to 8 (20_memory.md R53, R7). -/
def wordOfBytes (hi lo : Byte) : Word := BitVec.ofNat 16 (hi.toNat * 256 + lo.toNat)

/-- Bits 15 to 8 of a word. -/
def highByte (w : Word) : Byte := BitVec.ofNat 8 (w.toNat / 256)

/-- Bits 7 to 0 of a word. -/
def lowByte (w : Word) : Byte := BitVec.ofNat 8 w.toNat

/-- `op = w[15:12]`, the family (R71). -/
def fieldOp (w : Word) : Nat := w.toNat / 4096

/-- `x = w[11:8]` (R71). -/
def fieldX (w : Word) : RegIdx := Fin.ofNat 16 (w.toNat / 256)

/-- `y = w[7:4]` (R71). -/
def fieldY (w : Word) : RegIdx := Fin.ofNat 16 (w.toNat / 16)

/-- `n = w[3:0]` (R71). -/
def fieldN (w : Word) : Nibble := Fin.ofNat 16 w.toNat

/-- `nn = w[7:0]` (R71). -/
def fieldNn (w : Word) : Byte := BitVec.ofNat 8 w.toNat

/-- `nnn = w[11:0]` (R71). -/
def fieldNnn (w : Word) : Addr12 := BitVec.ofNat 12 w.toNat

/-- Family 0 matches the whole word (R77). -/
def decodeFamily0 (w : Word) : Decoded :=
  if w = 0x00E0 then .known .cls
  else if w = 0x00EE then .known .ret
  else .known (.sys (fieldNnn w))

/-- Family 8 selects by the low nibble (R78). -/
def decodeFamily8 (w : Word) : Decoded :=
  match (fieldN w).val with
  | 0x0 => .known (.ldReg (fieldX w) (fieldY w))
  | 0x1 => .known (.orReg (fieldX w) (fieldY w))
  | 0x2 => .known (.andReg (fieldX w) (fieldY w))
  | 0x3 => .known (.xorReg (fieldX w) (fieldY w))
  | 0x4 => .known (.addReg (fieldX w) (fieldY w))
  | 0x5 => .known (.sub (fieldX w) (fieldY w))
  | 0x6 => .known (.shr (fieldX w) (fieldY w))
  | 0x7 => .known (.subn (fieldX w) (fieldY w))
  | 0xE => .known (.shl (fieldX w) (fieldY w))
  | _ => .unknown w

/-- Family E selects by the low byte (R79). -/
def decodeFamilyE (w : Word) : Decoded :=
  if fieldNn w = 0x9E then .known (.skp (fieldX w))
  else if fieldNn w = 0xA1 then .known (.sknp (fieldX w))
  else .unknown w

/-- Family F selects by the low byte (R80). -/
def decodeFamilyF (w : Word) : Decoded :=
  if fieldNn w = 0x07 then .known (.ldVxDt (fieldX w))
  else if fieldNn w = 0x0A then .known (.ldVxK (fieldX w))
  else if fieldNn w = 0x15 then .known (.ldDtVx (fieldX w))
  else if fieldNn w = 0x18 then .known (.ldStVx (fieldX w))
  else if fieldNn w = 0x1E then .known (.addIVx (fieldX w))
  else if fieldNn w = 0x29 then .known (.ldFVx (fieldX w))
  else if fieldNn w = 0x33 then .known (.ldBVx (fieldX w))
  else if fieldNn w = 0x55 then .known (.ldMemVx (fieldX w))
  else if fieldNn w = 0x65 then .known (.ldVxMem (fieldX w))
  else .unknown w

/-- `Decode(w)` (R72, R75): select by the top nibble; families 0, 8, E and F select further, the others take the rest of the
word as operands (R81). R76 marks the patterns its source does not give (notes/assumptions/15.md). -/
def decodeWord (w : Word) : Decoded :=
  match fieldOp w with
  | 0x0 => decodeFamily0 w
  | 0x1 => .known (.jp (fieldNnn w))
  | 0x2 => .known (.call (fieldNnn w))
  | 0x3 => .known (.seImm (fieldX w) (fieldNn w))
  | 0x4 => .known (.sneImm (fieldX w) (fieldNn w))
  | 0x5 => .known (.seReg (fieldX w) (fieldY w) (fieldN w))
  | 0x6 => .known (.ldImm (fieldX w) (fieldNn w))
  | 0x7 => .known (.addImm (fieldX w) (fieldNn w))
  | 0x8 => decodeFamily8 w
  | 0x9 => .known (.sneReg (fieldX w) (fieldY w) (fieldN w))
  | 0xA => .known (.ldI (fieldNnn w))
  | 0xB => .known (.jpV0 (fieldNnn w))
  | 0xC => .known (.rnd (fieldX w) (fieldNn w))
  | 0xD => .known (.drw (fieldX w) (fieldY w) (fieldN w))
  | 0xE => decodeFamilyE w
  | 0xF => decodeFamilyF w
  | _ => .unknown w

/-- The instruction at the head of a byte list, with the bytes after it; every instruction is two bytes (R70, R83). -/
def decodeBytes : List Byte → Except DecodeError (Instr × List Byte)
  | hi :: lo :: rest =>
    match decodeWord (wordOfBytes hi lo) with
    | .known i => .ok (i, rest)
    | .unknown w => .error (.unknownWord w)
  | _ => .error .truncated

/-- The bytes of an instruction whose bits are `w`, numbered as spec/opcode_table.json numbers them: the word's bits above
`nbits` are zero, and the word lies big-endian (R53). -/
def tableBytes (nbits w : Nat) : List Byte :=
  [highByte (BitVec.ofNat 16 (w % 2 ^ nbits)), lowByte (BitVec.ofNat 16 (w % 2 ^ nbits))]

/-- The instruction the decoder reads from the table word `w`, none where it refuses. -/
def decodeTableWord (nbits w : Nat) : Option Instr :=
  match decodeBytes (tableBytes nbits w) with
  | .ok (i, _) => some i
  | .error _ => none

/-! ### The encoder (formats of R73) -/

/-- Format FA: `op nnn`. -/
def formatFA (op : Nat) (nnn : Addr12) : Word := BitVec.ofNat 16 (op * 4096 + nnn.toNat)

/-- Format FI and FX: `op x nn`. -/
def formatFI (op : Nat) (x : RegIdx) (nn : Byte) : Word :=
  BitVec.ofNat 16 (op * 4096 + x.val * 256 + nn.toNat)

/-- Format FR and FD: `op x y n`. -/
def formatFR (op : Nat) (x y : RegIdx) (n : Nibble) : Word :=
  BitVec.ofNat 16 (op * 4096 + x.val * 256 + y.val * 16 + n.val)

/-- The word of an instruction (R76). -/
def encode : Instr → Word
  | .cls => 0x00E0
  | .ret => 0x00EE
  | .sys nnn => formatFA 0x0 nnn
  | .jp nnn => formatFA 0x1 nnn
  | .call nnn => formatFA 0x2 nnn
  | .seImm x nn => formatFI 0x3 x nn
  | .sneImm x nn => formatFI 0x4 x nn
  | .seReg x y low => formatFR 0x5 x y low
  | .ldImm x nn => formatFI 0x6 x nn
  | .addImm x nn => formatFI 0x7 x nn
  | .ldReg x y => formatFR 0x8 x y 0x0
  | .orReg x y => formatFR 0x8 x y 0x1
  | .andReg x y => formatFR 0x8 x y 0x2
  | .xorReg x y => formatFR 0x8 x y 0x3
  | .addReg x y => formatFR 0x8 x y 0x4
  | .sub x y => formatFR 0x8 x y 0x5
  | .shr x y => formatFR 0x8 x y 0x6
  | .subn x y => formatFR 0x8 x y 0x7
  | .shl x y => formatFR 0x8 x y 0xE
  | .sneReg x y low => formatFR 0x9 x y low
  | .ldI nnn => formatFA 0xA nnn
  | .jpV0 nnn => formatFA 0xB nnn
  | .rnd x nn => formatFI 0xC x nn
  | .drw x y n => formatFR 0xD x y n
  | .skp x => formatFI 0xE x 0x9E
  | .sknp x => formatFI 0xE x 0xA1
  | .ldVxDt x => formatFI 0xF x 0x07
  | .ldVxK x => formatFI 0xF x 0x0A
  | .ldDtVx x => formatFI 0xF x 0x15
  | .ldStVx x => formatFI 0xF x 0x18
  | .addIVx x => formatFI 0xF x 0x1E
  | .ldFVx x => formatFI 0xF x 0x29
  | .ldBVx x => formatFI 0xF x 0x33
  | .ldMemVx x => formatFI 0xF x 0x55
  | .ldVxMem x => formatFI 0xF x 0x65

/-- The two bytes of an instruction as memory holds them (R53). -/
def encodeBytes (i : Instr) : List Byte := [highByte (encode i), lowByte (encode i)]

/-- The family nibble of an instruction (R76). -/
def Instr.family : Instr → Nat
  | .cls => 0x0
  | .ret => 0x0
  | .sys _ => 0x0
  | .jp _ => 0x1
  | .call _ => 0x2
  | .seImm _ _ => 0x3
  | .sneImm _ _ => 0x4
  | .seReg _ _ _ => 0x5
  | .ldImm _ _ => 0x6
  | .addImm _ _ => 0x7
  | .ldReg _ _ => 0x8
  | .orReg _ _ => 0x8
  | .andReg _ _ => 0x8
  | .xorReg _ _ => 0x8
  | .addReg _ _ => 0x8
  | .sub _ _ => 0x8
  | .shr _ _ => 0x8
  | .subn _ _ => 0x8
  | .shl _ _ => 0x8
  | .sneReg _ _ _ => 0x9
  | .ldI _ => 0xA
  | .jpV0 _ => 0xB
  | .rnd _ _ => 0xC
  | .drw _ _ _ => 0xD
  | .skp _ => 0xE
  | .sknp _ => 0xE
  | .ldVxDt _ => 0xF
  | .ldVxK _ => 0xF
  | .ldDtVx _ => 0xF
  | .ldStVx _ => 0xF
  | .addIVx _ => 0xF
  | .ldFVx _ => 0xF
  | .ldBVx _ => 0xF
  | .ldMemVx _ => 0xF
  | .ldVxMem _ => 0xF

end Sys2Proof
end

