-- ==== Sys2Proof/Config.lean ====
section
/-! DEFINITION. The configurable parameters of 00_scope.md R6 as one record of plain data, and the free value of the
random source. -/

namespace Sys2Proof

/-- UNKNOWN_OPCODE_POLICY (R6, 60_exceptions.md R181). -/
inductive UnknownOpcodePolicy where
  | fault
  | noOp
  deriving DecidableEq, Repr

/-- SHIFT_SOURCE (R6, 42_alu.md R141). -/
inductive ShiftSource where
  | x
  | y
  deriving DecidableEq, Repr

/-- FLAG_ORDER (R6, 42_alu.md R131). -/
inductive FlagOrder where
  | flagLast
  | flagFirst
  deriving DecidableEq, Repr

/-- DRAW_EDGE (R6, 43_display.md R155). -/
inductive DrawEdge where
  | clip
  | wrap
  deriving DecidableEq, Repr

/-- TIMER_MODE (R6, 40_cycle.md R97). -/
inductive TimerMode where
  | hostTick
  | perCycle
  deriving DecidableEq, Repr

/-- The parameters of R6, fixed when the block is built (10_state.md R36). The step reads them from the state's field
`cfg`, which no operation changes, so a statement about every state is a statement about every setting
(DESIGN CHOICE, safe: notes/assumptions/1.md). MAX_ROM_SIZE is derived and RandomSource is `Config.randomByte`. -/
structure Config where
  /-- FONT_BASE: address of the 80-byte font region. -/
  fontBase : Nat
  /-- PROGRAM_BASE: address where the ROM is loaded and execution starts. -/
  programBase : Nat
  /-- UNKNOWN_OPCODE_POLICY. -/
  unknownOpcode : UnknownOpcodePolicy
  /-- QUIRK_INDEX_INCREMENT. -/
  indexIncrement : Bool
  /-- SHIFT_SOURCE. -/
  shiftSource : ShiftSource
  /-- FLAG_ORDER. -/
  flagOrder : FlagOrder
  /-- DRAW_EDGE. -/
  drawEdge : DrawEdge
  /-- TIMER_MODE. -/
  timerMode : TimerMode
  deriving DecidableEq, Repr

/-- The RandomSource of R6: byte `k` that `draw()` returns (40_cycle.md R101). A FREE VALUE: it has no body, nothing
constrains it, so a claim holds for every sequence of bytes (U9, notes/assumptions/3.md). -/
opaque Config.randomByte : Nat → Byte

end Sys2Proof
end

