-- ==== Sys2Proof/Machine/Defaults.lean ====
section
/-! DEFINITION. The numbers of the block: the fixed parameters of 00_scope.md R5 the meanings use, and the default setting of
the parameters of R6. -/

namespace Sys2Proof.Machine

/-- MEM_SIZE: addresses 0 to 4095 (R5, 20_memory.md R50). -/
abbrev memSize : Nat := 4096

/-- STACK_DEPTH (R5, 10_state.md R27). -/
abbrev stackDepth : Nat := 16

/-- FB_WIDTH (R5). -/
abbrev fbWidth : Nat := 64

/-- FB_HEIGHT (R5). -/
abbrev fbHeight : Nat := 32

/-- GLYPH_BYTES (R5). -/
abbrev glyphBytes : Nat := 5

/-- FONT_SIZE (R5). -/
abbrev fontSize : Nat := 80

/-- The defaults of R6, each a decision of 92_eei_decisions.md (D1, D8, D9, D10, D15, D16, D17, D20);
the setting State.reset starts from (notes/assumptions/2.md). -/
def defaultConfig : Config where
  fontBase := 0x000
  programBase := 0x200
  unknownOpcode := .fault
  indexIncrement := false
  shiftSource := .x
  flagOrder := .flagLast
  drawEdge := .clip
  timerMode := .hostTick

/-- The conditions R6 sets on the two addresses: FONT_BASE + 80 <= PROGRAM_BASE < MEM_SIZE. -/
def configWf (c : Config) : Bool :=
  decide (c.fontBase + fontSize ≤ c.programBase) && decide (c.programBase < memSize)

/-- MAX_ROM_SIZE = MEM_SIZE - PROGRAM_BASE (R6, 70_reset_and_hazards.md R202). -/
def maxRomSize (c : Config) : Nat := memSize - c.programBase

end Sys2Proof.Machine
end

