-- ==== Sys2Proof/Machine/State.lean ====
section
/-! DEFINITION. The block's state as plain data (10_state.md R20 to R37), the reasons a step can stop, and the state after
Reset. -/

namespace Sys2Proof.Machine

/-- V[0x0] to V[0xF] (R21). -/
abbrev RegFile := Vector Byte 16

/-- FB as 32 rows of 64 cells, `true` lit: row 0 is the top, column 0 the left (R31). -/
abbrev Screen := Vector (Vector Bool 64) 32

/-- The bytes of MEM that are not zero: (address, byte) pairs, addresses strictly rising (R30). -/
abbrev MemCells := List Host.Cell

/-- The causes of 60_exceptions.md R180, code 0 (None) apart, which is an empty latch. -/
inductive FaultCause where
  /-- Code 1: returned by Load, never latched. -/
  | romTooLarge
  /-- Code 2: an unrecognized word under the policy Fault. -/
  | invalidOpcode
  /-- Code 3: CALL with 16 entries in use. -/
  | stackOverflow
  /-- Code 4: RET with none. -/
  | stackUnderflow
  /-- Code 5: an instruction fetch that reaches MEM_SIZE. -/
  | fetchOutOfRange
  /-- Code 6: a data range that reaches MEM_SIZE. -/
  | dataOutOfRange
  deriving DecidableEq, Repr

/-- What the fault latch records (R35); `addr` is an exact number. -/
structure FaultRecord where
  cause : FaultCause
  pc : Word
  word : Word
  addr : Nat
  deriving DecidableEq, Repr

/-- The result of a Cycle (40_cycle.md R98). -/
inductive CycleResult where
  /-- A recognized instruction ran. -/
  | executed
  /-- An unrecognized word was skipped under NoOp. -/
  | unknown (w : Word)
  /-- The cycle faulted, or the block was already faulted. -/
  | fault (r : FaultRecord)
  deriving DecidableEq, Repr

/-- The machine's state: R20's list, the last cycle result that the status output shows (R98), and two fields of the
model's own (`cfg`, `draws`). -/
structure State where
  /-- The model's own: the parameters of 00_scope.md R6, which no operation changes (notes/assumptions/1.md). -/
  cfg : Config
  /-- V[0x0] to V[0xF] (R21). -/
  v : RegFile
  /-- The index register I (R24). -/
  index : Word
  /-- The program counter PC (R25). -/
  pc : Word
  /-- The stack pointer SP, the number of occupied entries (R26). -/
  sp : Byte
  /-- STACK[0] to STACK[15] (R27). -/
  stack : Vector Word 16
  /-- The delay timer DT (R28). -/
  dt : Byte
  /-- The sound timer ST (R29). -/
  st : Byte
  /-- MEM (R30). -/
  mem : MemCells
  /-- The framebuffer FB (R31). -/
  fb : Screen
  /-- The keypad inputs KEY (R32), `true` pressed. -/
  key : Vector Bool 16
  /-- The pending-opcode latch OPCODE (R33). -/
  opcode : Word
  /-- The random-byte latch RND (R34). -/
  rnd : Byte
  /-- The fault latch FAULT (R35). -/
  fault : Option FaultRecord
  /-- The last cycle result the status output shows (R98), none before the first Cycle (notes/assumptions/4.md). -/
  result : Option CycleResult
  /-- The model's own: how many bytes `draw()` has returned (notes/assumptions/3.md). -/
  draws : Nat
  deriving DecidableEq, Repr

/-- The reasons a step ends without a next state. Every fault the SPEC describes is a next state with FAULT latched
(R182, notes/assumptions/5.md), so one reason is left, for states no run reaches. -/
inductive Fault where
  /-- Raised by RET with SP above 16, where STACK[SP - 1] does not exist (R26 says SP never is). Safe: the invariant
  `State.Inv` excludes it (notes/assumptions/6.md). -/
  | noStackEntry
  deriving DecidableEq, Repr

/-- The reasons a step is refused. -/
inductive Refusal where
  /-- An instruction without a meaning; no arm of `exec` raises it. Safe. -/
  | notModelled (mnemonic : String)
  deriving DecidableEq, Repr

/-- The state right after Reset (R37, 70_reset_and_hazards.md R200). The three values R37 does not give are `cfg`, `result`
and `draws` (notes/assumptions/2.md, 4.md, 3.md). -/
def State.reset : State where
  cfg := defaultConfig
  v := Vector.replicate 16 0
  index := 0
  pc := 0
  sp := 0
  stack := Vector.replicate 16 0
  dt := 0
  st := 0
  mem := []
  fb := Vector.replicate 32 (Vector.replicate 64 false)
  key := Vector.replicate 16 false
  opcode := 0
  rnd := 0
  fault := none
  result := none
  draws := 0

end Sys2Proof.Machine
end

