-- ==== Sys2Proof/Machine/Ops.lean ====
section
/-! DEFINITION. The named operations over the state: registers, memory, stack, framebuffer, timers, the random latch, the
range check, taking a fault and leaving it by Reset. Every meaning is written over these. -/

namespace Sys2Proof.Machine

/-! ### Registers (R21 to R26) -/

/-- `V[x]` of a register file; no register is hardwired, banked or an alias (R23). -/
def readReg (v : RegFile) (x : RegIdx) : Byte := v[x.val]

/-- `V[x] <- b` on a register file. -/
def writeReg (v : RegFile) (x : RegIdx) (b : Byte) : RegFile := v.set x.val b

/-- `V[x]`. -/
abbrev State.reg (s : State) (x : RegIdx) : Byte := readReg s.v x

/-- `V[x] <- b`. -/
def State.setReg (s : State) (x : RegIdx) (b : Byte) : State := { s with v := writeReg s.v x b }

/-- Replace the register file. -/
def State.setRegs (s : State) (v : RegFile) : State := { s with v := v }

/-- `I <- w`. -/
def State.setIndex (s : State) (w : Word) : State := { s with index := w }

/-- `PC <- w`. -/
def State.setPc (s : State) (w : Word) : State := { s with pc := w }

/-- `SP <- b`. -/
def State.setSp (s : State) (b : Byte) : State := { s with sp := b }

/-- `DT <- b`. -/
def State.setDt (s : State) (b : Byte) : State := { s with dt := b }

/-- `ST <- b`. -/
def State.setSt (s : State) (b : Byte) : State := { s with st := b }

/-- Replace the memory. -/
def State.setMem (s : State) (m : MemCells) : State := { s with mem := m }

/-- Replace the framebuffer. -/
def State.setFb (s : State) (f : Screen) : State := { s with fb := f }

/-- `OPCODE <- w`. -/
def State.setOpcode (s : State) (w : Word) : State := { s with opcode := w }

/-- Replace the last cycle result (R98). -/
def State.setResult (s : State) (r : CycleResult) : State := { s with result := some r }

/-- `VF`, the flags register (R22). -/
def flagReg : RegIdx := 0xF

/-! ### The return-address stack (R27) -/

/-- `STACK[k] <- w`. -/
def State.setStackEntry (s : State) (k : Nat) (w : Word) : State :=
  { s with stack := if h : k < 16 then s.stack.set k w else s.stack }

/-- `STACK[k]`, none where there is no such entry. -/
abbrev State.stackEntry (s : State) (k : Nat) : Option Word := s.stack[k]?

/-! ### Memory (R30, R50 to R57) -/

/-- The byte at an address; an unlisted address holds 0x00, what Reset leaves there (R37). -/
def memRead : MemCells → Nat → Byte
  | [], _ => 0
  | (a, v) :: rest, k => if k = a then v else memRead rest k

/-- Store a byte, keeping the canonical form: a zero byte is not listed. -/
def memWrite : MemCells → Nat → Byte → MemCells
  | [], k, b => if b = 0 then [] else [(k, b)]
  | (a, v) :: rest, k, b =>
    if k < a then (if b = 0 then (a, v) :: rest else (k, b) :: (a, v) :: rest)
    else if k = a then (if b = 0 then rest else (k, b) :: rest)
    else (a, v) :: memWrite rest k b

/-- The canonical form of memory from address `lo` up: addresses strictly rising and below MEM_SIZE, no zero byte listed. -/
def memWfFrom (lo : Nat) : MemCells → Bool
  | [] => true
  | (a, v) :: rest => decide (lo ≤ a) && decide (a < memSize) && decide (v ≠ 0) && memWfFrom (a + 1) rest

/-- The canonical form of memory. -/
def memWf (m : MemCells) : Bool := memWfFrom 0 m

/-- Store bytes at ascending addresses from `a` (R56). -/
def memWriteBytes : MemCells → Nat → List Byte → MemCells
  | m, _, [] => m
  | m, a, b :: rest => memWriteBytes (memWrite m a b) (a + 1) rest

/-- Read `k` bytes at ascending addresses from `a` (R56). -/
def memReadBytes (m : MemCells) : Nat → Nat → List Byte
  | _, 0 => []
  | a, k + 1 => memRead m a :: memReadBytes m (a + 1) k

/-- `MemRead(a, 1)` (R10). -/
abbrev State.byteAt (s : State) (a : Nat) : Byte := memRead s.mem a

/-- `Fetch(PC)`: the big-endian word at PC and PC + 1 (R53). -/
def State.fetchWord (s : State) : Word := wordOfBytes (s.byteAt s.pc.toNat) (s.byteAt (s.pc.toNat + 1))

/-- `CheckRange(a, k, …)` for k >= 1 (R52): the first out-of-range address of a, …, a + k - 1, none where all exist.
Addresses are exact (R51). -/
def firstOutOfRange (a k : Nat) : Option Nat := if a + k - 1 ≥ memSize then some (max a memSize) else none

/-! ### The framebuffer (R31) -/

/-- Every cell unlit. -/
def blankScreen : Screen := Vector.replicate 32 (Vector.replicate 64 false)

/-- `FB[y][x]`, false beyond the grid. -/
def cellAt (f : Screen) (x y : Nat) : Bool := if h : x < 64 ∧ y < 32 then f[y][x] else false

/-- `FB[y][x] <- FB[y][x] ^ 1`, nothing beyond the grid. -/
def toggleCell (f : Screen) (x y : Nat) : Screen :=
  if h : x < 64 ∧ y < 32 then f.set y (f[y].set x (!f[y][x])) else f

/-! ### Outputs' state and the clock-like operations -/

/-- `RND <- draw()` (R34, R96, R101): the next free value. -/
def State.redraw (s : State) : State := { s with rnd := Config.randomByte s.draws, draws := s.draws + 1 }

/-- A timer counts down to 0 and stays there (R28, R29). -/
def countDown (b : Byte) : Byte := if b = 0 then b else b - 1

/-- `TimerDecrement()` (R99): each timer on its own condition. -/
def State.timerDecrement (s : State) : State := { s with dt := countDown s.dt, st := countDown s.st }

/-! ### Executing, faulting, resetting -/

/-- What every executed instruction starts from: PC is its own address plus 2 (R25, R93) and the cycle's result is
Executed. -/
def State.advance (s : State) : State := { s with pc := s.pc + 2, result := some .executed }

/-- PC after `Skip(cond)`: two more bytes when the condition holds (R111). -/
def skipPc (cond : Bool) (pc : Word) : Word := if cond then pc + 2 else pc

/-- `Skip(cond)` on an advanced state (R111). -/
def State.skipIf (s : State) (cond : Bool) : State := s.setPc (skipPc cond s.pc)

/-- FAULT <- r and the cycle's result Fault(r). -/
def State.latchFault (s : State) (r : FaultRecord) : State := { s with fault := some r, result := some (.fault r) }

/-- Taking a fault (R182): `s` is the state BEFORE the faulting cycle, so nothing of that cycle is left; PC stays, the latch
records the cause, the instruction's address, its word and the address. Control goes nowhere. -/
def takeFault (cause : FaultCause) (addr : Nat) (word : Word) (s : State) : Host.Outcome State Fault Refusal :=
  .next (s.latchFault ⟨cause, s.pc, word, addr⟩)

/-- The only way out of a fault (R185): Reset sets every piece of the spec's state to its reset value (R200). The
parameters stay as built, and the random source goes on (notes/assumptions/3.md). -/
def State.resetBlock (s : State) : State := { State.reset with cfg := s.cfg, draws := s.draws }

/-- `CheckRange(a, k, cause)` before `ok` (R52, R56): the fault leaves `s` as it was. -/
def guardRange (cause : FaultCause) (a k : Nat) (word : Word) (s : State)
    (ok : Host.Outcome State Fault Refusal) : Host.Outcome State Fault Refusal :=
  match firstOutOfRange a k with
  | some addr => takeFault cause addr word s
  | none => ok

/-- An unrecognized word (R82, R110, R181): the policy Fault raises InvalidOpcode; NoOp advances PC and reports Unknown(w). -/
def unknownWord (w : Word) (s : State) : Host.Outcome State Fault Refusal :=
  match s.cfg.unknownOpcode with
  | .fault => takeFault .invalidOpcode 0 w s
  | .noOp => .next (s.advance.setResult (.unknown w))

/-- The end of a cycle whose execute phase gave `t` (R93, R94, R96, R97): a fault has undone everything; otherwise OPCODE
takes the fetched word, RND is redrawn and, in PerCycle mode, the timers count down. OPCODE is written here and not at the
fetch, which nothing can observe (R33, notes/assumptions/7.md). -/
def State.endCycle (t : State) (w : Word) : State :=
  match t.fault with
  | some _ => t
  | none =>
    match t.cfg.timerMode with
    | .hostTick => (t.setOpcode w).redraw
    | .perCycle => (t.setOpcode w).redraw.timerDecrement

/-- I after register dump or load of V0 to Vx: `I + x + 1` modulo 2^16 under QUIRK_INDEX_INCREMENT, else unchanged. -/
def nextIndex (c : Config) (index : Word) (x : RegIdx) : Word :=
  if c.indexIncrement then BitVec.ofNat 16 (index.toNat + x.val + 1) else index

/-- The index increment of register dump and load (R164, R165). -/
def State.bumpIndex (s : State) (x : RegIdx) : State := s.setIndex (nextIndex s.cfg s.index x)

end Sys2Proof.Machine
end

