-- ==== Sys2Proof/Machine/Operands.lean ====
section
/-! DEFINITION. The operand forms: which register a shift reads, which key a register names, the register block of dump and
load, BCD digits, start coordinates. -/

namespace Sys2Proof.Machine

/-- The source register of SHR and SHL (42_alu.md R141, R142). -/
def shiftReg (c : Config) (x y : RegIdx) : RegIdx :=
  match c.shiftSource with
  | .x => x
  | .y => y

/-- `nnn` zero-extended to 16 bits (30_encoding.md R74). -/
def zext16 (nnn : Addr12) : Word := BitVec.ofNat 16 nnn.toNat

/-- The key a register value names: masked to 4 bits (45_timers_keys.md R171). -/
def keyIndex (b : Byte) : Fin 16 := Fin.ofNat 16 b.toNat

/-- `KEY[k]` (10_state.md R32). -/
abbrev State.keyLevel (s : State) (k : Fin 16) : Bool := s.key[k.val]

/-- The least pressed key, scanning 0 to 15 in ascending order (R176). -/
def firstPressed (key : Vector Bool 16) : Option Nat := (List.range 16).find? fun k => key[k]? == some true

/-- `V[0]` to `V[x]`, in that order (44_index_memory.md R164). -/
def regBlock (v : RegFile) (x : RegIdx) : List Byte := v.toList.take (x.val + 1)

/-- Write a block of registers from index `k` up (R165). -/
def loadBlock : RegFile → Nat → List Byte → RegFile
  | v, _, [] => v
  | v, k, b :: rest => loadBlock (if h : k < 16 then v.set k b else v) (k + 1) rest

/-- Hundreds, tens and ones of a byte (R163). -/
def bcdDigits (b : Byte) : List Byte :=
  [BitVec.ofNat 8 (b.toNat / 100), BitVec.ofNat 8 (b.toNat / 10 % 10), BitVec.ofNat 8 (b.toNat % 10)]

/-- The font glyph's address for a register value, not masked (R162). -/
def glyphAddress (c : Config) (b : Byte) : Word := BitVec.ofNat 16 (c.fontBase + glyphBytes * b.toNat)

/-- The start column of a sprite (43_display.md R153). -/
def startColumn (b : Byte) : Nat := b.toNat % fbWidth

/-- The start row of a sprite (R153). -/
def startRow (b : Byte) : Nat := b.toNat % fbHeight

end Sys2Proof.Machine
end

