-- ==== Sys2Proof/Machine/Flags.lean ====
section
/-! DEFINITION. Every result and flag computation of 42_alu.md, in exact arithmetic on naturals reduced at the end (R130), and the
order of the two writes (R131). -/

namespace Sys2Proof.Machine

/-- A condition as a register value: 1 or 0 (R8). -/
def flagBit (c : Bool) : Byte := if c then 1 else 0

/-- `(a + b) mod 256` (R130). -/
def addResult (a b : Byte) : Byte := BitVec.ofNat 8 (a.toNat + b.toNat)

/-- The carry of an addition: the exact sum exceeds 255 (R138). -/
def addFlag (a b : Byte) : Byte := flagBit (decide (a.toNat + b.toNat > 255))

/-- `(a - b) mod 256`, the two's-complement wrap (R130). -/
def subResult (a b : Byte) : Byte := BitVec.ofNat 8 (a.toNat + 256 - b.toNat)

/-- The not-borrow flag, strict: equal operands give 0 (R139, R140). -/
def subFlag (a b : Byte) : Byte := flagBit (decide (a.toNat > b.toNat))

/-- `a >> 1` (R141). -/
def shrResult (a : Byte) : Byte := BitVec.ofNat 8 (a.toNat / 2)

/-- Bit 0 before the shift (R141). -/
def shrFlag (a : Byte) : Byte := BitVec.ofNat 8 (a.toNat % 2)

/-- `(a << 1) mod 256` (R142). -/
def shlResult (a : Byte) : Byte := BitVec.ofNat 8 (a.toNat * 2)

/-- Bit 7 before the shift (R142). -/
def shlFlag (a : Byte) : Byte := BitVec.ofNat 8 (a.toNat / 128)

/-- `FlagOp` of R131 on a register file: under FlagLast both functions read the old file and VF is written last; under
FlagFirst VF is written first and the result is computed from the updated file. -/
def flagOp (order : FlagOrder) (x : RegIdx) (resultFn flagFn : RegFile → Byte) (v : RegFile) : RegFile :=
  match order with
  | .flagLast => writeReg (writeReg v x (resultFn v)) flagReg (flagFn v)
  | .flagFirst => writeReg (writeReg v flagReg (flagFn v)) x (resultFn (writeReg v flagReg (flagFn v)))

end Sys2Proof.Machine
end

