-- ==== Sys2Proof/Machine/Alu.lean ====
section
/-! DEFINITION. Register arithmetic and logic (42_alu.md). None of these instructions accesses memory or raises a fault. -/

namespace Sys2Proof.Machine

/-- LD Vx, nn (R132). -/
def execLdImm (x : RegIdx) (nn : Byte) (s : State) : Host.Outcome State Fault Refusal :=
  .next (s.advance.setReg x nn)

/-- ADD Vx, nn (R133): no flag. -/
def execAddImm (x : RegIdx) (nn : Byte) (s : State) : Host.Outcome State Fault Refusal :=
  .next (s.advance.setReg x (addResult (s.reg x) nn))

/-- LD Vx, Vy (R134). -/
def execLdReg (x y : RegIdx) (s : State) : Host.Outcome State Fault Refusal :=
  .next (s.advance.setReg x (s.reg y))

/-- OR Vx, Vy (R135). -/
def execOrReg (x y : RegIdx) (s : State) : Host.Outcome State Fault Refusal :=
  .next (s.advance.setReg x (s.reg x ||| s.reg y))

/-- AND Vx, Vy (R136). -/
def execAndReg (x y : RegIdx) (s : State) : Host.Outcome State Fault Refusal :=
  .next (s.advance.setReg x (s.reg x &&& s.reg y))

/-- XOR Vx, Vy (R137). -/
def execXorReg (x y : RegIdx) (s : State) : Host.Outcome State Fault Refusal :=
  .next (s.advance.setReg x (s.reg x ^^^ s.reg y))

/-- ADD Vx, Vy (R138). -/
def execAddReg (x y : RegIdx) (s : State) : Host.Outcome State Fault Refusal :=
  .next (s.advance.setRegs (flagOp s.cfg.flagOrder x
    (fun v => addResult (readReg v x) (readReg v y)) (fun v => addFlag (readReg v x) (readReg v y)) s.v))

/-- SUB Vx, Vy (R139): Vx - Vy. -/
def execSub (x y : RegIdx) (s : State) : Host.Outcome State Fault Refusal :=
  .next (s.advance.setRegs (flagOp s.cfg.flagOrder x
    (fun v => subResult (readReg v x) (readReg v y)) (fun v => subFlag (readReg v x) (readReg v y)) s.v))

/-- SUBN Vx, Vy (R140): Vy - Vx. -/
def execSubn (x y : RegIdx) (s : State) : Host.Outcome State Fault Refusal :=
  .next (s.advance.setRegs (flagOp s.cfg.flagOrder x
    (fun v => subResult (readReg v y) (readReg v x)) (fun v => subFlag (readReg v y) (readReg v x)) s.v))

/-- SHR Vx (R141): the source register is chosen by SHIFT_SOURCE. -/
def execShr (x y : RegIdx) (s : State) : Host.Outcome State Fault Refusal :=
  .next (s.advance.setRegs (flagOp s.cfg.flagOrder x
    (fun v => shrResult (readReg v (shiftReg s.cfg x y))) (fun v => shrFlag (readReg v (shiftReg s.cfg x y))) s.v))

/-- SHL Vx (R142). -/
def execShl (x y : RegIdx) (s : State) : Host.Outcome State Fault Refusal :=
  .next (s.advance.setRegs (flagOp s.cfg.flagOrder x
    (fun v => shlResult (readReg v (shiftReg s.cfg x y))) (fun v => shlFlag (readReg v (shiftReg s.cfg x y))) s.v))

/-- RND Vx, nn (R143): the latch as the previous cycle, or Load, drew it. -/
def execRnd (x : RegIdx) (nn : Byte) (s : State) : Host.Outcome State Fault Refusal :=
  .next (s.advance.setReg x (s.rnd &&& nn))

end Sys2Proof.Machine
end

