-- ==== Sys2Proof/Machine/Display.lean ====
section
/-! DEFINITION. The display (43_display.md): CLS and DRW with the raster-write logic. -/

namespace Sys2Proof.Machine

/-- Where the cell (cx, cy) of a sprite lands (R155): itself under Clip, wrapped onto the grid under Wrap. -/
def landing (edge : DrawEdge) (cx cy : Nat) : Nat × Nat :=
  match edge with
  | .clip => (cx, cy)
  | .wrap => (cx % fbWidth, cy % fbHeight)

/-- Toggle one cell and accumulate the collision (R151, R152); a cell off the grid is neither toggled nor tested. -/
def plot (cell : Nat × Nat) (acc : Screen × Bool) : Screen × Bool :=
  if cell.1 < fbWidth ∧ cell.2 < fbHeight then
    (toggleCell acc.1 cell.1 cell.2, acc.2 || cellAt acc.1 cell.1 cell.2)
  else acc

/-- Sprite bit of a row byte for column c: bit 7 is column 0 (R154). -/
def spriteBit (b : Byte) (c : Nat) : Bool := b.getLsbD (7 - c)

/-- One row, columns left to right; `row` is the row on the grid before the edge policy. -/
def drawRow (edge : DrawEdge) (x0 row : Nat) (b : Byte) (acc : Screen × Bool) : Screen × Bool :=
  (List.range 8).foldl (fun a c => if spriteBit b c then plot (landing edge (x0 + c) row) a else a) acc

/-- All rows in ascending order. -/
def drawRows (edge : DrawEdge) (x0 : Nat) : Nat → List Byte → Screen × Bool → Screen × Bool
  | _, [], acc => acc
  | row, b :: rest, acc => drawRows edge x0 (row + 1) rest (drawRow edge x0 row b acc)

/-- The framebuffer and the collision after DRW has read its rows (R151). -/
def drawSprite (s : State) (x y : RegIdx) (n : Nibble) : Screen × Bool :=
  drawRows s.cfg.drawEdge (startColumn (s.reg x)) (startRow (s.reg y))
    (memReadBytes s.mem s.index.toNat n.val) (s.fb, false)

/-- DRW past its range check: the drawn cells, and VF <- collision. -/
def drawAndFlag (s : State) (x y : RegIdx) (n : Nibble) : State :=
  (s.advance.setFb (drawSprite s x y n).1).setReg flagReg (flagBit (drawSprite s x y n).2)

/-- CLS (R150). -/
def execCls (s : State) : Host.Outcome State Fault Refusal :=
  .next (s.advance.setFb blankScreen)

/-- DRW Vx, Vy, n (R151, R156): with n = 0 there is no range check, nothing is drawn and VF <- 0. -/
def execDrw (x y : RegIdx) (n : Nibble) (s : State) : Host.Outcome State Fault Refusal :=
  if n.val = 0 then .next (drawAndFlag s x y n)
  else guardRange .dataOutOfRange s.index.toNat n.val (encode (.drw x y n)) s (.next (drawAndFlag s x y n))

end Sys2Proof.Machine
end

