-- ==== Sys2Proof/Machine/Flow.lean ====
section
/-! DEFINITION. Control transfer (41_flow.md). Every meaning takes the state before the cycle and starts from `advance`,
where PC is the instruction's own address plus 2 (R93). -/

namespace Sys2Proof.Machine

/-- SYS nnn (R110): an unrecognized word. -/
def execSys (nnn : Addr12) (s : State) : Host.Outcome State Fault Refusal :=
  unknownWord (encode (.sys nnn)) s

/-- JP nnn (R112). -/
def execJp (nnn : Addr12) (s : State) : Host.Outcome State Fault Refusal :=
  .next (s.advance.setPc (zext16 nnn))

/-- CALL nnn (R113): push the return address, then jump; StackOverflow when no entry is free. -/
def execCall (nnn : Addr12) (s : State) : Host.Outcome State Fault Refusal :=
  if s.sp.toNat ≥ stackDepth then takeFault .stackOverflow 0 (encode (.call nnn)) s
  else .next (((s.advance.setStackEntry s.sp.toNat s.advance.pc).setSp (s.sp + 1)).setPc (zext16 nnn))

/-- RET (R114): pop the return address; StackUnderflow when SP = 0. The popped entry keeps its value (R27). -/
def execRet (s : State) : Host.Outcome State Fault Refusal :=
  if s.sp.toNat = 0 then takeFault .stackUnderflow 0 (encode .ret) s
  else
    match s.stackEntry (s.sp.toNat - 1) with
    | some w => .next ((s.advance.setSp (s.sp - 1)).setPc w)
    | none => .fault .noStackEntry

/-- SE Vx, nn (R115). -/
def execSeImm (x : RegIdx) (nn : Byte) (s : State) : Host.Outcome State Fault Refusal :=
  .next (s.advance.skipIf (decide (s.reg x = nn)))

/-- SNE Vx, nn (R116). -/
def execSneImm (x : RegIdx) (nn : Byte) (s : State) : Host.Outcome State Fault Refusal :=
  .next (s.advance.skipIf (decide (s.reg x ≠ nn)))

/-- SE Vx, Vy (R117); the low nibble is ignored (R81). -/
def execSeReg (x y : RegIdx) (s : State) : Host.Outcome State Fault Refusal :=
  .next (s.advance.skipIf (decide (s.reg x = s.reg y)))

/-- SNE Vx, Vy (R118); the low nibble is ignored (R81). -/
def execSneReg (x y : RegIdx) (s : State) : Host.Outcome State Fault Refusal :=
  .next (s.advance.skipIf (decide (s.reg x ≠ s.reg y)))

/-- JP V0, nnn (R119): the offset is always V0. -/
def execJpV0 (nnn : Addr12) (s : State) : Host.Outcome State Fault Refusal :=
  .next (s.advance.setPc (BitVec.ofNat 16 (nnn.toNat + (s.reg 0).toNat)))

end Sys2Proof.Machine
end

