-- ==== Sys2Proof/Machine/IndexMemory.lean ====
section
/-! DEFINITION. The index register and memory instructions (44_index_memory.md). -/

namespace Sys2Proof.Machine

/-- LD I, nnn (R160). -/
def execLdI (nnn : Addr12) (s : State) : Host.Outcome State Fault Refusal :=
  .next (s.advance.setIndex (zext16 nnn))

/-- ADD I, Vx (R161): modulo 2^16, no flag. -/
def execAddIVx (x : RegIdx) (s : State) : Host.Outcome State Fault Refusal :=
  .next (s.advance.setIndex (BitVec.ofNat 16 (s.index.toNat + (s.reg x).toNat)))

/-- LD F, Vx (R162). -/
def execLdFVx (x : RegIdx) (s : State) : Host.Outcome State Fault Refusal :=
  .next (s.advance.setIndex (glyphAddress s.cfg (s.reg x)))

/-- LD B, Vx (R163): three digits from I. -/
def execLdBVx (x : RegIdx) (s : State) : Host.Outcome State Fault Refusal :=
  guardRange .dataOutOfRange s.index.toNat 3 (encode (.ldBVx x)) s
    (.next (s.advance.setMem (memWriteBytes s.mem s.index.toNat (bcdDigits (s.reg x)))))

/-- LD [I], Vx, register dump (R164). -/
def execLdMemVx (x : RegIdx) (s : State) : Host.Outcome State Fault Refusal :=
  guardRange .dataOutOfRange s.index.toNat (x.val + 1) (encode (.ldMemVx x)) s
    (.next ((s.advance.setMem (memWriteBytes s.mem s.index.toNat (regBlock s.v x))).bumpIndex x))

/-- LD Vx, [I], register load (R165). -/
def execLdVxMem (x : RegIdx) (s : State) : Host.Outcome State Fault Refusal :=
  guardRange .dataOutOfRange s.index.toNat (x.val + 1) (encode (.ldVxMem x)) s
    (.next ((s.advance.setRegs (loadBlock s.v 0 (memReadBytes s.mem s.index.toNat (x.val + 1)))).bumpIndex x))

end Sys2Proof.Machine
end

