-- ==== Sys2Proof/Machine/TimersKeys.lean ====
section
/-! DEFINITION. The timer and keypad instructions (45_timers_keys.md). -/

namespace Sys2Proof.Machine

/-- LD Vx, DT (R170): DT before this cycle's decrement. -/
def execLdVxDt (x : RegIdx) (s : State) : Host.Outcome State Fault Refusal :=
  .next (s.advance.setReg x s.dt)

/-- LD DT, Vx (R172). -/
def execLdDtVx (x : RegIdx) (s : State) : Host.Outcome State Fault Refusal :=
  .next (s.advance.setDt (s.reg x))

/-- LD ST, Vx (R173). -/
def execLdStVx (x : RegIdx) (s : State) : Host.Outcome State Fault Refusal :=
  .next (s.advance.setSt (s.reg x))

/-- SKP Vx (R174, R171). -/
def execSkp (x : RegIdx) (s : State) : Host.Outcome State Fault Refusal :=
  .next (s.advance.skipIf (s.keyLevel (keyIndex (s.reg x))))

/-- SKNP Vx (R175, R171). -/
def execSknp (x : RegIdx) (s : State) : Host.Outcome State Fault Refusal :=
  .next (s.advance.skipIf (!s.keyLevel (keyIndex (s.reg x))))

/-- LD Vx, K (R176): the least pressed key, or PC moved back so that the same word is fetched again. -/
def execLdVxK (x : RegIdx) (s : State) : Host.Outcome State Fault Refusal :=
  match firstPressed s.key with
  | some k => .next (s.advance.setReg x (BitVec.ofNat 8 k))
  | none => .next (s.advance.setPc (s.advance.pc - 2))

end Sys2Proof.Machine
end

