-- ==== Sys2Proof/Machine/Cycle.lean ====
section
/-! DEFINITION. One Cycle (40_cycle.md R92, R93) and where a test places an instruction. -/

namespace Sys2Proof.Machine

/-- Decode the fetched word and run the one rule it selects (R93, R95); a word the decoder does not know follows the
unknown-word policy (R181). -/
def runWord (w : Word) (s : State) : Host.Outcome State Fault Refusal :=
  match decodeWord w with
  | .known i => exec i s
  | .unknown u => unknownWord u s

/-- The cycle after a fetch in range: run the word, then end the cycle. -/
def runAndEnd (w : Word) (s : State) : Host.Outcome State Fault Refusal :=
  match runWord w s with
  | .next t => .next (t.endCycle w)
  | .fault r => .fault r
  | .refused r => .refused r

/-- `Cycle()` (R92, R93). A faulted block stays as it is and reports its record again; otherwise the fetch is checked,
the word is fetched and run. A fetch that faults records word 0. -/
def cycle (s : State) : Host.Outcome State Fault Refusal :=
  match s.fault with
  | some r => .next (s.setResult (.fault r))
  | none => guardRange .fetchOutOfRange s.pc.toNat 2 0 s (runAndEnd s.fetchWord s)

/-- Where the next fetch can read an instruction: PC, or PROGRAM_BASE's default where PC has no two bytes. -/
def fetchable (pc : Word) : Word := if pc.toNat + 1 < memSize then pc else 0x200

/-- `s` with an instruction's bytes where the next cycle fetches, and no fault latched (notes/assumptions/10.md). -/
def placeInstruction (s : State) (bytes : List Byte) : State :=
  { s with pc := fetchable s.pc, mem := memWriteBytes s.mem (fetchable s.pc).toNat bytes, fault := none }

end Sys2Proof.Machine
end

