-- ==== Sys2Proof/Machine/Step.lean ====
section
/-! DEFINITION. The step is one Cycle; the host's way to place an instruction. -/

namespace Sys2Proof.Machine

/-- One step: the operation Cycle (40_cycle.md R93). The host's other operations are in Machine/Operations.lean. -/
def step (s : State) : Host.Outcome State Fault Refusal := cycle s

/-- `s` with the instruction of table word `w` where `step` fetches next. -/
def State.withFetchWord (s : State) (nbits w : Nat) : State := placeInstruction s (tableBytes nbits w)

end Sys2Proof.Machine
end

