-- ==== Sys2Proof/Machine/Operations.lean ====
section
/-! DEFINITION. The host-facing operations and outputs of the block (40_cycle.md R90 to R105, 70_reset_and_hazards.md R200 to
R203). -/

namespace Sys2Proof.Machine

/-- The font table, glyphs 0 to F of 5 bytes each (20_memory.md R59, which marks the bytes as not in its source:
notes/assumptions/14.md). -/
def fontTable : List Byte :=
  [0xF0, 0x90, 0x90, 0x90, 0xF0] ++ [0x20, 0x60, 0x20, 0x20, 0x70] ++
  [0xF0, 0x10, 0xF0, 0x80, 0xF0] ++ [0xF0, 0x10, 0xF0, 0x10, 0xF0] ++
  [0x90, 0x90, 0xF0, 0x10, 0x10] ++ [0xF0, 0x80, 0xF0, 0x10, 0xF0] ++
  [0xF0, 0x80, 0xF0, 0x90, 0xF0] ++ [0xF0, 0x10, 0x20, 0x40, 0x40] ++
  [0xF0, 0x90, 0xF0, 0x90, 0xF0] ++ [0xF0, 0x90, 0xF0, 0x10, 0xF0] ++
  [0xF0, 0x90, 0xF0, 0x90, 0x90] ++ [0xE0, 0x90, 0xE0, 0x90, 0xE0] ++
  [0xF0, 0x80, 0x80, 0x80, 0xF0] ++ [0xE0, 0x90, 0x90, 0x90, 0xE0] ++
  [0xF0, 0x80, 0xF0, 0x80, 0xF0] ++ [0xF0, 0x80, 0xF0, 0x80, 0x80]

/-- What Load returns (R201, R202). -/
inductive LoadResult where
  | ok
  | romTooLarge
  deriving DecidableEq, Repr

/-- The diagnostic trace's record (R103). -/
structure TraceRecord where
  opcode : Word
  index : Word
  v : RegFile
  pc : Word
  deriving DecidableEq, Repr

/-- The operations the host may invoke (R90, R105). -/
inductive Operation where
  | reset
  | load (rom : List Byte)
  | cycle
  | timerTick
  | setKey (k : Fin 16) (pressed : Bool)
  deriving DecidableEq, Repr

/-- What an operation hands back to the host (R105). -/
inductive Reply where
  | none
  | load (r : LoadResult)
  | cycle (r : Option CycleResult)
  deriving DecidableEq, Repr

/-- Load's effect on a ROM that fits (R201): font, ROM, PC and RND, nothing else; a latched fault stays. -/
def loadFitting (s : State) (rom : List Byte) : State :=
  ((s.setMem (memWriteBytes (memWriteBytes s.mem s.cfg.fontBase fontTable) s.cfg.programBase rom)).setPc
    (BitVec.ofNat 16 s.cfg.programBase)).redraw

/-- `Load(b, len)` (R201, R202): a ROM that is too large changes nothing. -/
def loadRom (s : State) (rom : List Byte) : State × LoadResult :=
  if rom.length > maxRomSize s.cfg then (s, .romTooLarge) else (loadFitting s rom, .ok)

/-- `TimerTick()` (R99): a faulted block is frozen. -/
def timerTick (s : State) : State :=
  match s.fault with
  | some _ => s
  | none => s.timerDecrement

/-- `SetKey(k, b)` (R100): accepted whether or not the block is faulted. -/
def setKey (s : State) (k : Fin 16) (pressed : Bool) : State := { s with key := s.key.set k.val pressed }

/-- One operation of the host (R90, R91: atomic, serialized). Cycle is `step`. -/
def operate (o : Operation) (s : State) : Host.Outcome State Fault Refusal :=
  match o with
  | .reset => .next s.resetBlock
  | .load rom => .next (loadRom s rom).1
  | .cycle => step s
  | .timerTick => .next (timerTick s)
  | .setKey k b => .next (setKey s k b)

/-- What the operation that took the block from `s` to `t` returns (R98, R201, R202, R105). -/
def reply (o : Operation) (s t : State) : Reply :=
  match o with
  | .reset => .none
  | .load rom => .load (loadRom s rom).2
  | .cycle => .cycle t.result
  | .timerTick => .none
  | .setKey _ _ => .none

/-- A sequence of operations, the input of a run (R91). -/
def runOps : List Operation → State → Host.Outcome State Fault Refusal
  | [], s => .next s
  | o :: rest, s =>
    match operate o s with
    | .next t => runOps rest t
    | .fault r => .fault r
    | .refused r => .refused r

/-! ### Outputs -/

/-- The cause codes of 60_exceptions.md R180. -/
def causeCode : FaultCause → Nat
  | .romTooLarge => 1
  | .invalidOpcode => 2
  | .stackOverflow => 3
  | .stackUnderflow => 4
  | .fetchOutOfRange => 5
  | .dataOutOfRange => 6

/-- The code the status output shows for FAULT, 0 for None (R180). -/
def faultCode (f : Option FaultRecord) : Nat :=
  match f with
  | some r => causeCode r.cause
  | none => 0

/-- The status output (R98): FAULT and the last cycle result. -/
def statusOutput (s : State) : Option FaultRecord × Option CycleResult := (s.fault, s.result)

/-- The sound output: 1 while ST > 0 (R104). -/
def soundOutput (s : State) : Bool := decide (s.st.toNat > 0)

/-- The framebuffer port: 2048 cells, row by row, cell (x, y) at index y*64 + x (R102). -/
def framebufferPort (s : State) : List Bool :=
  (List.range (fbWidth * fbHeight)).map fun k => cellAt s.fb (k % fbWidth) (k / fbWidth)

/-- The trace record of a cycle that ended in `s` (R103): one per non-faulting cycle, when the host enables it. -/
def traceOutput (enabled : Bool) (s : State) : Option TraceRecord :=
  match enabled, s.result with
  | true, some .executed => some ⟨s.opcode, s.index, s.v, s.pc⟩
  | true, some (.unknown _) => some ⟨s.opcode, s.index, s.v, s.pc⟩
  | _, _ => none

end Sys2Proof.Machine
end

