-- ==== Sys2Proof/Safety.lean ====
section
/-! DEFINITION. The terms claims use: the block's invariant, the ends of a run, and what "unchanged" means. -/

namespace Sys2Proof.Machine

/-- A latched fault is also the last result the status shows, and RomTooLarge is never latched (R98, R180, R182). -/
def faultShown (s : State) : Bool :=
  match s.fault with
  | none => true
  | some r => decide (s.result = some (.fault r)) && decide (r.cause ≠ .romTooLarge)

/-- What holds in every state the block can reach: memory has its canonical form, 0 <= SP <= 16 (R26), the parameters meet
R6's conditions, and a latched fault is shown. -/
abbrev State.Inv (s : State) : Prop :=
  memWf s.mem = true ∧ s.sp.toNat ≤ 16 ∧ configWf s.cfg = true ∧ faultShown s = true

/-! ### The ends of a run (70_reset_and_hazards.md R204) -/

/-- Faulted end: a fault is latched. -/
def faultedEnd (s : State) : Bool := s.fault.isSome

/-- Halted end: the word at PC is `JP PC`. -/
def haltedEnd (s : State) : Bool :=
  decide (s.fault = none) && decide (s.pc.toNat + 1 < memSize) && decide (s.pc.toNat ≤ 0xFFF) &&
    decide (s.fetchWord.toNat = 0x1000 + s.pc.toNat)

/-- Waiting: the word at PC is LD Vx, K and no key is pressed. -/
def waitingForKey (s : State) : Bool :=
  decide (s.fault = none) && decide (s.pc.toNat + 1 < memSize) &&
    (match decodeWord s.fetchWord with
     | .known (.ldVxK _) => true
     | _ => false) &&
    decide (firstPressed s.key = none)

/-! ### What an operation leaves unchanged -/

/-- The fields of State. -/
inductive Field where
  | cfg | v | index | pc | sp | stack | dt | st | mem | fb | key | opcode | rnd | fault | result | draws
  deriving DecidableEq, Repr

/-- A field is the same in two states; memory through the read of every byte. -/
def sameField (f : Field) (s t : State) : Prop :=
  match f with
  | .cfg => t.cfg = s.cfg
  | .v => ∀ r, t.reg r = s.reg r
  | .index => t.index = s.index
  | .pc => t.pc = s.pc
  | .sp => t.sp = s.sp
  | .stack => ∀ k, t.stackEntry k = s.stackEntry k
  | .dt => t.dt = s.dt
  | .st => t.st = s.st
  | .mem => ∀ a, t.byteAt a = s.byteAt a
  | .fb => ∀ x y, cellAt t.fb x y = cellAt s.fb x y
  | .key => ∀ k, t.keyLevel k = s.keyLevel k
  | .opcode => t.opcode = s.opcode
  | .rnd => t.rnd = s.rnd
  | .fault => t.fault = s.fault
  | .result => t.result = s.result
  | .draws => t.draws = s.draws

/-- Every field but the named ones is unchanged. -/
def KeepsAllBut (changed : List Field) (s t : State) : Prop := ∀ f, f ∉ changed → sameField f s t

/-- Every register but the named ones is unchanged. -/
def KeepsRegsBut (changed : List RegIdx) (s t : State) : Prop := ∀ r, r ∉ changed → t.reg r = s.reg r

/-! ### Terms of the per-instruction statements -/

/-- The word `n` decodes to the instruction `i` and is its encoding. -/
def Encodes (i : Instr) (n : Nat) : Prop := decodeWord (BitVec.ofNat 16 n) = .known i ∧ encode i = BitVec.ofNat 16 n

/-- If the block is not faulted, its next Cycle latches FetchOutOfRange. -/
def FaultsAtNextFetch (s : State) : Prop :=
  s.fault = none → ∃ t r, step s = .next t ∧ t.fault = some r ∧ r.cause = .fetchOutOfRange

/-- `t` is `s` with exactly this fault taken: the record latched and reported, everything else as in `s` (R182). -/
def TookFault (cause : FaultCause) (word : Word) (addr : Nat) (s t : State) : Prop :=
  t.fault = some ⟨cause, s.pc, word, addr⟩ ∧ t.result = some (.fault ⟨cause, s.pc, word, addr⟩) ∧
    KeepsAllBut [.fault, .result] s t

/-- `t` is `s` after an instruction that went on to the word after its own and whose cycle result is Executed; the fields
named beside PC and the result may have changed too. -/
def WentOn (changed : List Field) (s t : State) : Prop :=
  t.pc = s.pc + 2 ∧ t.result = some .executed ∧ KeepsAllBut (.pc :: .result :: changed) s t

/-- The set bit (row r, column c) of the sprite DRW Vx, Vy, n draws from `s` reaches the grid cell (cx, cy)
(43_display.md R151, R153, R154, R155). -/
def SpriteBitAt (s : State) (x y : RegIdx) (r c cx cy : Nat) : Prop :=
  (s.byteAt (s.index.toNat + r)).getLsbD (7 - c) = true ∧ cx < 64 ∧ cy < 32 ∧
    match s.cfg.drawEdge with
    | .clip => cx = (s.reg x).toNat % 64 + c ∧ cy = (s.reg y).toNat % 32 + r
    | .wrap => cx = ((s.reg x).toNat % 64 + c) % 64 ∧ cy = ((s.reg y).toNat % 32 + r) % 32

/-- Some set bit of the sprite DRW Vx, Vy, n draws from `s` reaches the grid cell (cx, cy). -/
def SpriteCovers (s : State) (x y : RegIdx) (n : Nibble) (cx cy : Nat) : Prop :=
  ∃ r c, r < n.val ∧ c < 8 ∧ SpriteBitAt s x y r c cx cy

end Sys2Proof.Machine
end

