-- ==== Sys2Proof/Laws/State.lean ====
section
/-! SUPPORT. One lemma per field per update of the state, true by rfl, so that no proof unfolds a record update. -/

namespace Sys2Proof.Machine

variable (s : State)

/-! ### setReg -/

@[simp] theorem State.setReg_cfg (x : RegIdx) (b : Byte) : (s.setReg x b).cfg = s.cfg := rfl
@[simp] theorem State.setReg_v (x : RegIdx) (b : Byte) : (s.setReg x b).v = writeReg s.v x b := rfl
@[simp] theorem State.setReg_index (x : RegIdx) (b : Byte) : (s.setReg x b).index = s.index := rfl
@[simp] theorem State.setReg_pc (x : RegIdx) (b : Byte) : (s.setReg x b).pc = s.pc := rfl
@[simp] theorem State.setReg_sp (x : RegIdx) (b : Byte) : (s.setReg x b).sp = s.sp := rfl
@[simp] theorem State.setReg_stack (x : RegIdx) (b : Byte) : (s.setReg x b).stack = s.stack := rfl
@[simp] theorem State.setReg_dt (x : RegIdx) (b : Byte) : (s.setReg x b).dt = s.dt := rfl
@[simp] theorem State.setReg_st (x : RegIdx) (b : Byte) : (s.setReg x b).st = s.st := rfl
@[simp] theorem State.setReg_mem (x : RegIdx) (b : Byte) : (s.setReg x b).mem = s.mem := rfl
@[simp] theorem State.setReg_fb (x : RegIdx) (b : Byte) : (s.setReg x b).fb = s.fb := rfl
@[simp] theorem State.setReg_key (x : RegIdx) (b : Byte) : (s.setReg x b).key = s.key := rfl
@[simp] theorem State.setReg_opcode (x : RegIdx) (b : Byte) : (s.setReg x b).opcode = s.opcode := rfl
@[simp] theorem State.setReg_rnd (x : RegIdx) (b : Byte) : (s.setReg x b).rnd = s.rnd := rfl
@[simp] theorem State.setReg_fault (x : RegIdx) (b : Byte) : (s.setReg x b).fault = s.fault := rfl
@[simp] theorem State.setReg_result (x : RegIdx) (b : Byte) : (s.setReg x b).result = s.result := rfl
@[simp] theorem State.setReg_draws (x : RegIdx) (b : Byte) : (s.setReg x b).draws = s.draws := rfl

/-! ### setRegs -/

@[simp] theorem State.setRegs_cfg (w : RegFile) : (s.setRegs w).cfg = s.cfg := rfl
@[simp] theorem State.setRegs_v (w : RegFile) : (s.setRegs w).v = w := rfl
@[simp] theorem State.setRegs_index (w : RegFile) : (s.setRegs w).index = s.index := rfl
@[simp] theorem State.setRegs_pc (w : RegFile) : (s.setRegs w).pc = s.pc := rfl
@[simp] theorem State.setRegs_sp (w : RegFile) : (s.setRegs w).sp = s.sp := rfl
@[simp] theorem State.setRegs_stack (w : RegFile) : (s.setRegs w).stack = s.stack := rfl
@[simp] theorem State.setRegs_dt (w : RegFile) : (s.setRegs w).dt = s.dt := rfl
@[simp] theorem State.setRegs_st (w : RegFile) : (s.setRegs w).st = s.st := rfl
@[simp] theorem State.setRegs_mem (w : RegFile) : (s.setRegs w).mem = s.mem := rfl
@[simp] theorem State.setRegs_fb (w : RegFile) : (s.setRegs w).fb = s.fb := rfl
@[simp] theorem State.setRegs_key (w : RegFile) : (s.setRegs w).key = s.key := rfl
@[simp] theorem State.setRegs_opcode (w : RegFile) : (s.setRegs w).opcode = s.opcode := rfl
@[simp] theorem State.setRegs_rnd (w : RegFile) : (s.setRegs w).rnd = s.rnd := rfl
@[simp] theorem State.setRegs_fault (w : RegFile) : (s.setRegs w).fault = s.fault := rfl
@[simp] theorem State.setRegs_result (w : RegFile) : (s.setRegs w).result = s.result := rfl
@[simp] theorem State.setRegs_draws (w : RegFile) : (s.setRegs w).draws = s.draws := rfl

/-! ### setIndex -/

@[simp] theorem State.setIndex_cfg (w : Word) : (s.setIndex w).cfg = s.cfg := rfl
@[simp] theorem State.setIndex_v (w : Word) : (s.setIndex w).v = s.v := rfl
@[simp] theorem State.setIndex_index (w : Word) : (s.setIndex w).index = w := rfl
@[simp] theorem State.setIndex_pc (w : Word) : (s.setIndex w).pc = s.pc := rfl
@[simp] theorem State.setIndex_sp (w : Word) : (s.setIndex w).sp = s.sp := rfl
@[simp] theorem State.setIndex_stack (w : Word) : (s.setIndex w).stack = s.stack := rfl
@[simp] theorem State.setIndex_dt (w : Word) : (s.setIndex w).dt = s.dt := rfl
@[simp] theorem State.setIndex_st (w : Word) : (s.setIndex w).st = s.st := rfl
@[simp] theorem State.setIndex_mem (w : Word) : (s.setIndex w).mem = s.mem := rfl
@[simp] theorem State.setIndex_fb (w : Word) : (s.setIndex w).fb = s.fb := rfl
@[simp] theorem State.setIndex_key (w : Word) : (s.setIndex w).key = s.key := rfl
@[simp] theorem State.setIndex_opcode (w : Word) : (s.setIndex w).opcode = s.opcode := rfl
@[simp] theorem State.setIndex_rnd (w : Word) : (s.setIndex w).rnd = s.rnd := rfl
@[simp] theorem State.setIndex_fault (w : Word) : (s.setIndex w).fault = s.fault := rfl
@[simp] theorem State.setIndex_result (w : Word) : (s.setIndex w).result = s.result := rfl
@[simp] theorem State.setIndex_draws (w : Word) : (s.setIndex w).draws = s.draws := rfl

/-! ### setPc -/

@[simp] theorem State.setPc_cfg (w : Word) : (s.setPc w).cfg = s.cfg := rfl
@[simp] theorem State.setPc_v (w : Word) : (s.setPc w).v = s.v := rfl
@[simp] theorem State.setPc_index (w : Word) : (s.setPc w).index = s.index := rfl
@[simp] theorem State.setPc_pc (w : Word) : (s.setPc w).pc = w := rfl
@[simp] theorem State.setPc_sp (w : Word) : (s.setPc w).sp = s.sp := rfl
@[simp] theorem State.setPc_stack (w : Word) : (s.setPc w).stack = s.stack := rfl
@[simp] theorem State.setPc_dt (w : Word) : (s.setPc w).dt = s.dt := rfl
@[simp] theorem State.setPc_st (w : Word) : (s.setPc w).st = s.st := rfl
@[simp] theorem State.setPc_mem (w : Word) : (s.setPc w).mem = s.mem := rfl
@[simp] theorem State.setPc_fb (w : Word) : (s.setPc w).fb = s.fb := rfl
@[simp] theorem State.setPc_key (w : Word) : (s.setPc w).key = s.key := rfl
@[simp] theorem State.setPc_opcode (w : Word) : (s.setPc w).opcode = s.opcode := rfl
@[simp] theorem State.setPc_rnd (w : Word) : (s.setPc w).rnd = s.rnd := rfl
@[simp] theorem State.setPc_fault (w : Word) : (s.setPc w).fault = s.fault := rfl
@[simp] theorem State.setPc_result (w : Word) : (s.setPc w).result = s.result := rfl
@[simp] theorem State.setPc_draws (w : Word) : (s.setPc w).draws = s.draws := rfl

/-! ### setSp -/

@[simp] theorem State.setSp_cfg (b : Byte) : (s.setSp b).cfg = s.cfg := rfl
@[simp] theorem State.setSp_v (b : Byte) : (s.setSp b).v = s.v := rfl
@[simp] theorem State.setSp_index (b : Byte) : (s.setSp b).index = s.index := rfl
@[simp] theorem State.setSp_pc (b : Byte) : (s.setSp b).pc = s.pc := rfl
@[simp] theorem State.setSp_sp (b : Byte) : (s.setSp b).sp = b := rfl
@[simp] theorem State.setSp_stack (b : Byte) : (s.setSp b).stack = s.stack := rfl
@[simp] theorem State.setSp_dt (b : Byte) : (s.setSp b).dt = s.dt := rfl
@[simp] theorem State.setSp_st (b : Byte) : (s.setSp b).st = s.st := rfl
@[simp] theorem State.setSp_mem (b : Byte) : (s.setSp b).mem = s.mem := rfl
@[simp] theorem State.setSp_fb (b : Byte) : (s.setSp b).fb = s.fb := rfl
@[simp] theorem State.setSp_key (b : Byte) : (s.setSp b).key = s.key := rfl
@[simp] theorem State.setSp_opcode (b : Byte) : (s.setSp b).opcode = s.opcode := rfl
@[simp] theorem State.setSp_rnd (b : Byte) : (s.setSp b).rnd = s.rnd := rfl
@[simp] theorem State.setSp_fault (b : Byte) : (s.setSp b).fault = s.fault := rfl
@[simp] theorem State.setSp_result (b : Byte) : (s.setSp b).result = s.result := rfl
@[simp] theorem State.setSp_draws (b : Byte) : (s.setSp b).draws = s.draws := rfl

/-! ### setDt -/

@[simp] theorem State.setDt_cfg (b : Byte) : (s.setDt b).cfg = s.cfg := rfl
@[simp] theorem State.setDt_v (b : Byte) : (s.setDt b).v = s.v := rfl
@[simp] theorem State.setDt_index (b : Byte) : (s.setDt b).index = s.index := rfl
@[simp] theorem State.setDt_pc (b : Byte) : (s.setDt b).pc = s.pc := rfl
@[simp] theorem State.setDt_sp (b : Byte) : (s.setDt b).sp = s.sp := rfl
@[simp] theorem State.setDt_stack (b : Byte) : (s.setDt b).stack = s.stack := rfl
@[simp] theorem State.setDt_dt (b : Byte) : (s.setDt b).dt = b := rfl
@[simp] theorem State.setDt_st (b : Byte) : (s.setDt b).st = s.st := rfl
@[simp] theorem State.setDt_mem (b : Byte) : (s.setDt b).mem = s.mem := rfl
@[simp] theorem State.setDt_fb (b : Byte) : (s.setDt b).fb = s.fb := rfl
@[simp] theorem State.setDt_key (b : Byte) : (s.setDt b).key = s.key := rfl
@[simp] theorem State.setDt_opcode (b : Byte) : (s.setDt b).opcode = s.opcode := rfl
@[simp] theorem State.setDt_rnd (b : Byte) : (s.setDt b).rnd = s.rnd := rfl
@[simp] theorem State.setDt_fault (b : Byte) : (s.setDt b).fault = s.fault := rfl
@[simp] theorem State.setDt_result (b : Byte) : (s.setDt b).result = s.result := rfl
@[simp] theorem State.setDt_draws (b : Byte) : (s.setDt b).draws = s.draws := rfl

/-! ### setSt -/

@[simp] theorem State.setSt_cfg (b : Byte) : (s.setSt b).cfg = s.cfg := rfl
@[simp] theorem State.setSt_v (b : Byte) : (s.setSt b).v = s.v := rfl
@[simp] theorem State.setSt_index (b : Byte) : (s.setSt b).index = s.index := rfl
@[simp] theorem State.setSt_pc (b : Byte) : (s.setSt b).pc = s.pc := rfl
@[simp] theorem State.setSt_sp (b : Byte) : (s.setSt b).sp = s.sp := rfl
@[simp] theorem State.setSt_stack (b : Byte) : (s.setSt b).stack = s.stack := rfl
@[simp] theorem State.setSt_dt (b : Byte) : (s.setSt b).dt = s.dt := rfl
@[simp] theorem State.setSt_st (b : Byte) : (s.setSt b).st = b := rfl
@[simp] theorem State.setSt_mem (b : Byte) : (s.setSt b).mem = s.mem := rfl
@[simp] theorem State.setSt_fb (b : Byte) : (s.setSt b).fb = s.fb := rfl
@[simp] theorem State.setSt_key (b : Byte) : (s.setSt b).key = s.key := rfl
@[simp] theorem State.setSt_opcode (b : Byte) : (s.setSt b).opcode = s.opcode := rfl
@[simp] theorem State.setSt_rnd (b : Byte) : (s.setSt b).rnd = s.rnd := rfl
@[simp] theorem State.setSt_fault (b : Byte) : (s.setSt b).fault = s.fault := rfl
@[simp] theorem State.setSt_result (b : Byte) : (s.setSt b).result = s.result := rfl
@[simp] theorem State.setSt_draws (b : Byte) : (s.setSt b).draws = s.draws := rfl

/-! ### setMem -/

@[simp] theorem State.setMem_cfg (m : MemCells) : (s.setMem m).cfg = s.cfg := rfl
@[simp] theorem State.setMem_v (m : MemCells) : (s.setMem m).v = s.v := rfl
@[simp] theorem State.setMem_index (m : MemCells) : (s.setMem m).index = s.index := rfl
@[simp] theorem State.setMem_pc (m : MemCells) : (s.setMem m).pc = s.pc := rfl
@[simp] theorem State.setMem_sp (m : MemCells) : (s.setMem m).sp = s.sp := rfl
@[simp] theorem State.setMem_stack (m : MemCells) : (s.setMem m).stack = s.stack := rfl
@[simp] theorem State.setMem_dt (m : MemCells) : (s.setMem m).dt = s.dt := rfl
@[simp] theorem State.setMem_st (m : MemCells) : (s.setMem m).st = s.st := rfl
@[simp] theorem State.setMem_mem (m : MemCells) : (s.setMem m).mem = m := rfl
@[simp] theorem State.setMem_fb (m : MemCells) : (s.setMem m).fb = s.fb := rfl
@[simp] theorem State.setMem_key (m : MemCells) : (s.setMem m).key = s.key := rfl
@[simp] theorem State.setMem_opcode (m : MemCells) : (s.setMem m).opcode = s.opcode := rfl
@[simp] theorem State.setMem_rnd (m : MemCells) : (s.setMem m).rnd = s.rnd := rfl
@[simp] theorem State.setMem_fault (m : MemCells) : (s.setMem m).fault = s.fault := rfl
@[simp] theorem State.setMem_result (m : MemCells) : (s.setMem m).result = s.result := rfl
@[simp] theorem State.setMem_draws (m : MemCells) : (s.setMem m).draws = s.draws := rfl

/-! ### setFb -/

@[simp] theorem State.setFb_cfg (f : Screen) : (s.setFb f).cfg = s.cfg := rfl
@[simp] theorem State.setFb_v (f : Screen) : (s.setFb f).v = s.v := rfl
@[simp] theorem State.setFb_index (f : Screen) : (s.setFb f).index = s.index := rfl
@[simp] theorem State.setFb_pc (f : Screen) : (s.setFb f).pc = s.pc := rfl
@[simp] theorem State.setFb_sp (f : Screen) : (s.setFb f).sp = s.sp := rfl
@[simp] theorem State.setFb_stack (f : Screen) : (s.setFb f).stack = s.stack := rfl
@[simp] theorem State.setFb_dt (f : Screen) : (s.setFb f).dt = s.dt := rfl
@[simp] theorem State.setFb_st (f : Screen) : (s.setFb f).st = s.st := rfl
@[simp] theorem State.setFb_mem (f : Screen) : (s.setFb f).mem = s.mem := rfl
@[simp] theorem State.setFb_fb (f : Screen) : (s.setFb f).fb = f := rfl
@[simp] theorem State.setFb_key (f : Screen) : (s.setFb f).key = s.key := rfl
@[simp] theorem State.setFb_opcode (f : Screen) : (s.setFb f).opcode = s.opcode := rfl
@[simp] theorem State.setFb_rnd (f : Screen) : (s.setFb f).rnd = s.rnd := rfl
@[simp] theorem State.setFb_fault (f : Screen) : (s.setFb f).fault = s.fault := rfl
@[simp] theorem State.setFb_result (f : Screen) : (s.setFb f).result = s.result := rfl
@[simp] theorem State.setFb_draws (f : Screen) : (s.setFb f).draws = s.draws := rfl

/-! ### setOpcode -/

@[simp] theorem State.setOpcode_cfg (w : Word) : (s.setOpcode w).cfg = s.cfg := rfl
@[simp] theorem State.setOpcode_v (w : Word) : (s.setOpcode w).v = s.v := rfl
@[simp] theorem State.setOpcode_index (w : Word) : (s.setOpcode w).index = s.index := rfl
@[simp] theorem State.setOpcode_pc (w : Word) : (s.setOpcode w).pc = s.pc := rfl
@[simp] theorem State.setOpcode_sp (w : Word) : (s.setOpcode w).sp = s.sp := rfl
@[simp] theorem State.setOpcode_stack (w : Word) : (s.setOpcode w).stack = s.stack := rfl
@[simp] theorem State.setOpcode_dt (w : Word) : (s.setOpcode w).dt = s.dt := rfl
@[simp] theorem State.setOpcode_st (w : Word) : (s.setOpcode w).st = s.st := rfl
@[simp] theorem State.setOpcode_mem (w : Word) : (s.setOpcode w).mem = s.mem := rfl
@[simp] theorem State.setOpcode_fb (w : Word) : (s.setOpcode w).fb = s.fb := rfl
@[simp] theorem State.setOpcode_key (w : Word) : (s.setOpcode w).key = s.key := rfl
@[simp] theorem State.setOpcode_opcode (w : Word) : (s.setOpcode w).opcode = w := rfl
@[simp] theorem State.setOpcode_rnd (w : Word) : (s.setOpcode w).rnd = s.rnd := rfl
@[simp] theorem State.setOpcode_fault (w : Word) : (s.setOpcode w).fault = s.fault := rfl
@[simp] theorem State.setOpcode_result (w : Word) : (s.setOpcode w).result = s.result := rfl
@[simp] theorem State.setOpcode_draws (w : Word) : (s.setOpcode w).draws = s.draws := rfl

/-! ### setResult -/

@[simp] theorem State.setResult_cfg (r : CycleResult) : (s.setResult r).cfg = s.cfg := rfl
@[simp] theorem State.setResult_v (r : CycleResult) : (s.setResult r).v = s.v := rfl
@[simp] theorem State.setResult_index (r : CycleResult) : (s.setResult r).index = s.index := rfl
@[simp] theorem State.setResult_pc (r : CycleResult) : (s.setResult r).pc = s.pc := rfl
@[simp] theorem State.setResult_sp (r : CycleResult) : (s.setResult r).sp = s.sp := rfl
@[simp] theorem State.setResult_stack (r : CycleResult) : (s.setResult r).stack = s.stack := rfl
@[simp] theorem State.setResult_dt (r : CycleResult) : (s.setResult r).dt = s.dt := rfl
@[simp] theorem State.setResult_st (r : CycleResult) : (s.setResult r).st = s.st := rfl
@[simp] theorem State.setResult_mem (r : CycleResult) : (s.setResult r).mem = s.mem := rfl
@[simp] theorem State.setResult_fb (r : CycleResult) : (s.setResult r).fb = s.fb := rfl
@[simp] theorem State.setResult_key (r : CycleResult) : (s.setResult r).key = s.key := rfl
@[simp] theorem State.setResult_opcode (r : CycleResult) : (s.setResult r).opcode = s.opcode := rfl
@[simp] theorem State.setResult_rnd (r : CycleResult) : (s.setResult r).rnd = s.rnd := rfl
@[simp] theorem State.setResult_fault (r : CycleResult) : (s.setResult r).fault = s.fault := rfl
@[simp] theorem State.setResult_result (r : CycleResult) : (s.setResult r).result = some r := rfl
@[simp] theorem State.setResult_draws (r : CycleResult) : (s.setResult r).draws = s.draws := rfl

/-! ### setStackEntry -/

@[simp] theorem State.setStackEntry_cfg (k : Nat) (w : Word) : (s.setStackEntry k w).cfg = s.cfg := rfl
@[simp] theorem State.setStackEntry_v (k : Nat) (w : Word) : (s.setStackEntry k w).v = s.v := rfl
@[simp] theorem State.setStackEntry_index (k : Nat) (w : Word) : (s.setStackEntry k w).index = s.index := rfl
@[simp] theorem State.setStackEntry_pc (k : Nat) (w : Word) : (s.setStackEntry k w).pc = s.pc := rfl
@[simp] theorem State.setStackEntry_sp (k : Nat) (w : Word) : (s.setStackEntry k w).sp = s.sp := rfl
@[simp] theorem State.setStackEntry_stack (k : Nat) (w : Word) : (s.setStackEntry k w).stack = if h : k < 16 then s.stack.set k w else s.stack := rfl
@[simp] theorem State.setStackEntry_dt (k : Nat) (w : Word) : (s.setStackEntry k w).dt = s.dt := rfl
@[simp] theorem State.setStackEntry_st (k : Nat) (w : Word) : (s.setStackEntry k w).st = s.st := rfl
@[simp] theorem State.setStackEntry_mem (k : Nat) (w : Word) : (s.setStackEntry k w).mem = s.mem := rfl
@[simp] theorem State.setStackEntry_fb (k : Nat) (w : Word) : (s.setStackEntry k w).fb = s.fb := rfl
@[simp] theorem State.setStackEntry_key (k : Nat) (w : Word) : (s.setStackEntry k w).key = s.key := rfl
@[simp] theorem State.setStackEntry_opcode (k : Nat) (w : Word) : (s.setStackEntry k w).opcode = s.opcode := rfl
@[simp] theorem State.setStackEntry_rnd (k : Nat) (w : Word) : (s.setStackEntry k w).rnd = s.rnd := rfl
@[simp] theorem State.setStackEntry_fault (k : Nat) (w : Word) : (s.setStackEntry k w).fault = s.fault := rfl
@[simp] theorem State.setStackEntry_result (k : Nat) (w : Word) : (s.setStackEntry k w).result = s.result := rfl
@[simp] theorem State.setStackEntry_draws (k : Nat) (w : Word) : (s.setStackEntry k w).draws = s.draws := rfl

/-! ### redraw -/

@[simp] theorem State.redraw_cfg : (s.redraw).cfg = s.cfg := rfl
@[simp] theorem State.redraw_v : (s.redraw).v = s.v := rfl
@[simp] theorem State.redraw_index : (s.redraw).index = s.index := rfl
@[simp] theorem State.redraw_pc : (s.redraw).pc = s.pc := rfl
@[simp] theorem State.redraw_sp : (s.redraw).sp = s.sp := rfl
@[simp] theorem State.redraw_stack : (s.redraw).stack = s.stack := rfl
@[simp] theorem State.redraw_dt : (s.redraw).dt = s.dt := rfl
@[simp] theorem State.redraw_st : (s.redraw).st = s.st := rfl
@[simp] theorem State.redraw_mem : (s.redraw).mem = s.mem := rfl
@[simp] theorem State.redraw_fb : (s.redraw).fb = s.fb := rfl
@[simp] theorem State.redraw_key : (s.redraw).key = s.key := rfl
@[simp] theorem State.redraw_opcode : (s.redraw).opcode = s.opcode := rfl
@[simp] theorem State.redraw_rnd : (s.redraw).rnd = Config.randomByte s.draws := rfl
@[simp] theorem State.redraw_fault : (s.redraw).fault = s.fault := rfl
@[simp] theorem State.redraw_result : (s.redraw).result = s.result := rfl
@[simp] theorem State.redraw_draws : (s.redraw).draws = s.draws + 1 := rfl

/-! ### timerDecrement -/

@[simp] theorem State.timerDecrement_cfg : (s.timerDecrement).cfg = s.cfg := rfl
@[simp] theorem State.timerDecrement_v : (s.timerDecrement).v = s.v := rfl
@[simp] theorem State.timerDecrement_index : (s.timerDecrement).index = s.index := rfl
@[simp] theorem State.timerDecrement_pc : (s.timerDecrement).pc = s.pc := rfl
@[simp] theorem State.timerDecrement_sp : (s.timerDecrement).sp = s.sp := rfl
@[simp] theorem State.timerDecrement_stack : (s.timerDecrement).stack = s.stack := rfl
@[simp] theorem State.timerDecrement_dt : (s.timerDecrement).dt = countDown s.dt := rfl
@[simp] theorem State.timerDecrement_st : (s.timerDecrement).st = countDown s.st := rfl
@[simp] theorem State.timerDecrement_mem : (s.timerDecrement).mem = s.mem := rfl
@[simp] theorem State.timerDecrement_fb : (s.timerDecrement).fb = s.fb := rfl
@[simp] theorem State.timerDecrement_key : (s.timerDecrement).key = s.key := rfl
@[simp] theorem State.timerDecrement_opcode : (s.timerDecrement).opcode = s.opcode := rfl
@[simp] theorem State.timerDecrement_rnd : (s.timerDecrement).rnd = s.rnd := rfl
@[simp] theorem State.timerDecrement_fault : (s.timerDecrement).fault = s.fault := rfl
@[simp] theorem State.timerDecrement_result : (s.timerDecrement).result = s.result := rfl
@[simp] theorem State.timerDecrement_draws : (s.timerDecrement).draws = s.draws := rfl

/-! ### advance -/

@[simp] theorem State.advance_cfg : (s.advance).cfg = s.cfg := rfl
@[simp] theorem State.advance_v : (s.advance).v = s.v := rfl
@[simp] theorem State.advance_index : (s.advance).index = s.index := rfl
@[simp] theorem State.advance_pc : (s.advance).pc = s.pc + 2 := rfl
@[simp] theorem State.advance_sp : (s.advance).sp = s.sp := rfl
@[simp] theorem State.advance_stack : (s.advance).stack = s.stack := rfl
@[simp] theorem State.advance_dt : (s.advance).dt = s.dt := rfl
@[simp] theorem State.advance_st : (s.advance).st = s.st := rfl
@[simp] theorem State.advance_mem : (s.advance).mem = s.mem := rfl
@[simp] theorem State.advance_fb : (s.advance).fb = s.fb := rfl
@[simp] theorem State.advance_key : (s.advance).key = s.key := rfl
@[simp] theorem State.advance_opcode : (s.advance).opcode = s.opcode := rfl
@[simp] theorem State.advance_rnd : (s.advance).rnd = s.rnd := rfl
@[simp] theorem State.advance_fault : (s.advance).fault = s.fault := rfl
@[simp] theorem State.advance_result : (s.advance).result = some .executed := rfl
@[simp] theorem State.advance_draws : (s.advance).draws = s.draws := rfl

/-! ### latchFault -/

@[simp] theorem State.latchFault_cfg (r : FaultRecord) : (s.latchFault r).cfg = s.cfg := rfl
@[simp] theorem State.latchFault_v (r : FaultRecord) : (s.latchFault r).v = s.v := rfl
@[simp] theorem State.latchFault_index (r : FaultRecord) : (s.latchFault r).index = s.index := rfl
@[simp] theorem State.latchFault_pc (r : FaultRecord) : (s.latchFault r).pc = s.pc := rfl
@[simp] theorem State.latchFault_sp (r : FaultRecord) : (s.latchFault r).sp = s.sp := rfl
@[simp] theorem State.latchFault_stack (r : FaultRecord) : (s.latchFault r).stack = s.stack := rfl
@[simp] theorem State.latchFault_dt (r : FaultRecord) : (s.latchFault r).dt = s.dt := rfl
@[simp] theorem State.latchFault_st (r : FaultRecord) : (s.latchFault r).st = s.st := rfl
@[simp] theorem State.latchFault_mem (r : FaultRecord) : (s.latchFault r).mem = s.mem := rfl
@[simp] theorem State.latchFault_fb (r : FaultRecord) : (s.latchFault r).fb = s.fb := rfl
@[simp] theorem State.latchFault_key (r : FaultRecord) : (s.latchFault r).key = s.key := rfl
@[simp] theorem State.latchFault_opcode (r : FaultRecord) : (s.latchFault r).opcode = s.opcode := rfl
@[simp] theorem State.latchFault_rnd (r : FaultRecord) : (s.latchFault r).rnd = s.rnd := rfl
@[simp] theorem State.latchFault_fault (r : FaultRecord) : (s.latchFault r).fault = some r := rfl
@[simp] theorem State.latchFault_result (r : FaultRecord) : (s.latchFault r).result = some (.fault r) := rfl
@[simp] theorem State.latchFault_draws (r : FaultRecord) : (s.latchFault r).draws = s.draws := rfl

/-! ### Reads, in terms of the fields -/

@[simp] theorem State.reg_eq (x : RegIdx) : s.reg x = readReg s.v x := rfl
@[simp] theorem State.byteAt_eq (a : Nat) : s.byteAt a = memRead s.mem a := rfl
@[simp] theorem State.stackEntry_eq (k : Nat) : s.stackEntry k = s.stack[k]? := rfl
@[simp] theorem State.keyLevel_eq (k : Fin 16) : s.keyLevel k = s.key[k.val] := rfl

end Sys2Proof.Machine
end

