-- ==== Sys2Proof/Laws/Ops.lean ====
section
/-! SUPPORT. What each shared operation can do, said once: registers, memory, the register block, the framebuffer, the range
check, faults, the end of a cycle, flags. -/

namespace Sys2Proof.Machine

/-! ### Registers -/

@[simp] theorem readReg_writeReg (v : RegFile) (x y : RegIdx) (b : Byte) :
    readReg (writeReg v x b) y = if y = x then b else readReg v y := by
  by_cases h : y = x
  · simp [readReg, writeReg, h]
  · have : x.val ≠ y.val := fun e => h (Fin.ext e.symm)
    simp [readReg, writeReg, h, this]

/-- Two register files that read alike are equal. -/
theorem RegFile.ext_reads {v w : RegFile} (h : ∀ r, readReg v r = readReg w r) : v = w := by
  apply Vector.ext
  intro i hi
  exact h ⟨i, hi⟩

/-! ### Memory -/

/-- A canonical memory reads 0 below its first address. -/
theorem memRead_below {m : MemCells} {lo a : Nat} (h : memWfFrom lo m = true) (ha : a < lo) : memRead m a = 0 := by
  induction m generalizing lo with
  | nil => rfl
  | cons c rest ih =>
    obtain ⟨k, v⟩ := c
    simp only [memWfFrom, Bool.and_eq_true, decide_eq_true_eq] at h
    have : a ≠ k := by omega
    simp only [memRead, this, if_false]
    exact ih h.2 (by omega)

theorem memWfFrom_mono {m : MemCells} {lo lo' : Nat} (h : memWfFrom lo m = true) (hl : lo' ≤ lo) :
    memWfFrom lo' m = true := by
  cases m with
  | nil => rfl
  | cons c rest =>
    obtain ⟨k, v⟩ := c
    simp only [memWfFrom, Bool.and_eq_true, decide_eq_true_eq] at h ⊢
    exact ⟨⟨⟨by omega, h.1.1.2⟩, h.1.2⟩, h.2⟩

/-- Reading after a write: the byte written at its address, every other byte as before. -/
theorem memRead_memWrite_from {m : MemCells} {lo : Nat} (h : memWfFrom lo m = true) (a k : Nat) (b : Byte) :
    memRead (memWrite m a b) k = if k = a then b else memRead m k := by
  induction m generalizing lo with
  | nil =>
    by_cases hb : b = 0#8 <;> by_cases hk : k = a <;> simp [memWrite, memRead, hb, hk]
  | cons c rest ih =>
    obtain ⟨e, v⟩ := c
    simp only [memWfFrom, Bool.and_eq_true, decide_eq_true_eq] at h
    have hz : ∀ j, j ≤ e → memRead rest j = 0 := fun j hj => memRead_below h.2 (by omega)
    unfold memWrite
    split
    · by_cases hb : b = 0#8
      · by_cases hk : k = a
        · subst hk
          have : k ≠ e := by omega
          simp [hb, memRead, this, hz k (by omega)]
        · simp [hb, hk]
      · by_cases hk : k = a <;> simp [hb, hk, memRead]
    · split
      · rename_i he
        subst he
        by_cases hb : b = 0#8
        · by_cases hk : k = a
          · subst hk; simp [hb, hz k (by omega)]
          · simp [hb, hk, memRead]
        · by_cases hk : k = a <;> simp [hb, hk, memRead]
      · by_cases hk : k = e
        · subst hk
          have : ¬ k = a := by omega
          simp [memRead, this]
        · simp only [memRead, hk, if_false]
          exact ih h.2

theorem memRead_memWrite {m : MemCells} (h : memWf m = true) (a k : Nat) (b : Byte) :
    memRead (memWrite m a b) k = if k = a then b else memRead m k := memRead_memWrite_from h a k b

theorem memWfFrom_memWrite {m : MemCells} {lo a : Nat} (h : memWfFrom lo m = true) (hl : lo ≤ a) (ha : a < memSize)
    (b : Byte) : memWfFrom lo (memWrite m a b) = true := by
  induction m generalizing lo with
  | nil => by_cases hb : b = 0#8 <;> simp [memWrite, memWfFrom, hb, hl, ha]
  | cons c rest ih =>
    obtain ⟨e, v⟩ := c
    simp only [memWfFrom, Bool.and_eq_true, decide_eq_true_eq] at h
    obtain ⟨⟨⟨h1, h2⟩, h3⟩, h4⟩ := h
    unfold memWrite
    split
    · by_cases hb : b = 0#8
      · simpa [hb, memWfFrom, h1, h2, h4] using h3
      · have : a + 1 ≤ e := by omega
        simpa [hb, memWfFrom, hl, ha, this, h2, h4] using h3
    · split
      · rename_i he
        subst he
        by_cases hb : b = 0#8
        · simpa [hb] using memWfFrom_mono h4 (by omega)
        · simp [hb, memWfFrom, hl, ha, h4]
      · simp only [memWfFrom, Bool.and_eq_true, decide_eq_true_eq]
        exact ⟨⟨⟨h1, h2⟩, h3⟩, ih h4 (by omega)⟩

/-- A write at an address that exists keeps the canonical form. -/
theorem memWf_memWrite {m : MemCells} {a : Nat} (h : memWf m = true) (ha : a < memSize) (b : Byte) :
    memWf (memWrite m a b) = true := memWfFrom_memWrite h (Nat.zero_le a) ha b

theorem memWf_memWriteBytes {m : MemCells} {a : Nat} {bs : List Byte} (h : memWf m = true)
    (ha : a + bs.length ≤ memSize) : memWf (memWriteBytes m a bs) = true := by
  induction bs generalizing m a with
  | nil => exact h
  | cons b rest ih =>
    simp only [List.length_cons] at ha
    exact ih (memWf_memWrite h (by omega) b) (by omega)

/-- Reading after a block write: the block's byte inside it, every other byte as before. -/
theorem memRead_memWriteBytes {m : MemCells} {a : Nat} {bs : List Byte} (h : memWf m = true)
    (ha : a + bs.length ≤ memSize) (k : Nat) :
    memRead (memWriteBytes m a bs) k = if a ≤ k ∧ k < a + bs.length then bs.getD (k - a) 0 else memRead m k := by
  induction bs generalizing m a with
  | nil =>
    have : ¬ (a ≤ k ∧ k < a + 0) := by omega
    simp only [memWriteBytes, List.length_nil, if_neg this]
  | cons b rest ih =>
    simp only [List.length_cons] at ha ⊢
    rw [memWriteBytes, ih (memWf_memWrite h (by omega) b) (by omega), memRead_memWrite h]
    by_cases h1 : k = a
    · subst h1
      have h3 : k ≤ k ∧ k < k + (rest.length + 1) := by omega
      simp [h3]
    · by_cases h2 : a + 1 ≤ k ∧ k < a + 1 + rest.length
      · have h3 : a ≤ k ∧ k < a + (rest.length + 1) := by omega
        have h4 : k - a = (k - (a + 1)) + 1 := by omega
        rw [if_pos h2, if_pos h3, h4, List.getD_cons_succ]
      · have h3 : ¬ (a ≤ k ∧ k < a + (rest.length + 1)) := by omega
        rw [if_neg h2, if_neg h3, if_neg h1]

@[simp] theorem length_memReadBytes (m : MemCells) (a k : Nat) : (memReadBytes m a k).length = k := by
  induction k generalizing a with
  | zero => rfl
  | succ k ih => simp [memReadBytes, ih]

/-- Byte j of a block read. -/
theorem getElem?_memReadBytes (m : MemCells) (a k j : Nat) :
    (memReadBytes m a k)[j]? = if j < k then some (memRead m (a + j)) else none := by
  induction k generalizing a j with
  | zero => simp [memReadBytes]
  | succ k ih =>
    cases j with
    | zero => simp [memReadBytes]
    | succ j =>
      simp only [memReadBytes, List.getElem?_cons_succ, ih]
      simp [Nat.add_assoc, Nat.add_comm 1]

/-! ### The register block of dump and load -/

@[simp] theorem length_regBlock (v : RegFile) (x : RegIdx) : (regBlock v x).length = x.val + 1 := by
  simp [regBlock]

theorem getElem?_regBlock (v : RegFile) (x : RegIdx) (r : RegIdx) (h : r ≤ x) :
    (regBlock v x)[r.val]? = some (readReg v r) := by
  have h' : r.val < x.val + 1 := by have : r.val ≤ x.val := h; omega
  simp [regBlock, h', readReg]

/-- Register r after a block of registers was written from index k up. -/
theorem readReg_loadBlock (v : RegFile) (k : Nat) (bs : List Byte) (r : RegIdx) :
    readReg (loadBlock v k bs) r = if k ≤ r.val then bs.getD (r.val - k) (readReg v r) else readReg v r := by
  induction bs generalizing v k with
  | nil => simp [loadBlock]
  | cons b rest ih =>
    rw [loadBlock, ih]
    have hr := r.isLt
    by_cases hk : k < 16
    · simp only [hk, dif_pos]
      by_cases h1 : k = r.val
      · have h2 : ¬ (k + 1 ≤ r.val) := by omega
        simp [h1, readReg]
      · have e : readReg (v.set k b) r = readReg v r := by simp [readReg, h1]
        by_cases h2 : k + 1 ≤ r.val
        · have h3 : k ≤ r.val := by omega
          have h4 : r.val - k = (r.val - (k + 1)) + 1 := by omega
          rw [if_pos h2, if_pos h3, h4, List.getD_cons_succ, e]
        · have h3 : ¬ k ≤ r.val := by omega
          rw [if_neg h2, if_neg h3, e]
    · have h2 : ¬ (k + 1 ≤ r.val) := by omega
      have h3 : ¬ (k ≤ r.val) := by omega
      simp [hk, h2, h3]

/-! ### The framebuffer -/

@[simp] theorem cellAt_blankScreen (x y : Nat) : cellAt blankScreen x y = false := by
  unfold cellAt blankScreen
  split <;> simp

/-- A toggle changes its own cell and no other. -/
theorem cellAt_toggleCell (f : Screen) (cx cy x y : Nat) :
    cellAt (toggleCell f cx cy) x y =
      if x = cx ∧ y = cy ∧ cx < 64 ∧ cy < 32 then !cellAt f x y else cellAt f x y := by
  unfold toggleCell
  by_cases hc : cx < 64 ∧ cy < 32
  · simp only [hc]
    unfold cellAt
    by_cases hx : x < 64 ∧ y < 32
    · obtain ⟨hx1, hx2⟩ := hx
      by_cases h1 : y = cy
      · subst h1
        by_cases h2 : x = cx
        · subst h2; simp [hx1, hx2]
        · have h2' : cx ≠ x := fun e => h2 e.symm
          simp [hx1, hx2, h2, h2']
      · have h1' : cy ≠ y := fun e => h1 e.symm
        simp [hx1, hx2, h1, h1']
    · simp only [hx, dif_neg, not_false_iff]
      have : ¬ (x = cx ∧ y = cy ∧ True ∧ True) := by rintro ⟨rfl, rfl, -⟩; exact hx hc
      split
      · rename_i h; exact absurd ⟨h.1, h.2.1, trivial, trivial⟩ this
      · rfl
  · simp only [hc, dif_neg, not_false_iff]
    simp

/-- Two screens whose cells read alike are equal. -/
theorem Screen.ext_cells {f g : Screen} (h : ∀ x y, cellAt f x y = cellAt g x y) : f = g := by
  apply Vector.ext
  intro y hy
  apply Vector.ext
  intro x hx
  have := h x y
  simpa [cellAt, hx, hy] using this

/-! ### The range check -/

/-- A range is in bounds exactly when its last address exists. -/
theorem firstOutOfRange_none {a k : Nat} (h : a + k - 1 < memSize) : firstOutOfRange a k = none := by
  simp [firstOutOfRange]; omega

/-- The first out-of-range address of a range that leaves memory. -/
theorem firstOutOfRange_some {a k : Nat} (h : memSize ≤ a + k - 1) :
    firstOutOfRange a k = some (max a memSize) := by
  simp [firstOutOfRange, h]

/-- Everything the range check can do. -/
theorem guardRange_cases (cause : FaultCause) (a k : Nat) (w : Word) (s : State)
    (ok : Host.Outcome State Fault Refusal) :
    (a + k - 1 < memSize ∧ guardRange cause a k w s ok = ok) ∨
    (memSize ≤ a + k - 1 ∧
      guardRange cause a k w s ok = .next (s.latchFault ⟨cause, s.pc, w, max a memSize⟩)) := by
  by_cases h : a + k - 1 < memSize
  · exact .inl ⟨h, by simp [guardRange, firstOutOfRange_none h]⟩
  · have h' : memSize ≤ a + k - 1 := by omega
    exact .inr ⟨h', by simp [guardRange, firstOutOfRange_some h', takeFault]⟩

/-! ### Executing, faulting, ending a cycle -/

/-- What an unrecognized word does under each policy. -/
theorem unknownWord_cases (w : Word) (s : State) :
    (s.cfg.unknownOpcode = .fault ∧ unknownWord w s = .next (s.latchFault ⟨.invalidOpcode, s.pc, w, 0⟩)) ∨
    (s.cfg.unknownOpcode = .noOp ∧ unknownWord w s = .next (s.advance.setResult (.unknown w))) := by
  cases h : s.cfg.unknownOpcode <;> simp [unknownWord, h, takeFault]

/-- A skip moves PC and nothing else. -/
@[simp] theorem skipIf_eq (s : State) (c : Bool) : s.skipIf c = s.setPc (skipPc c s.pc) := rfl

/-- From the advanced PC a taken skip reaches own address + 4, a skip not taken own address + 2. -/
theorem skipPc_advanced (c : Bool) (p : Word) : skipPc c (p + 2) = if c then p + 4 else p + 2 := by
  cases c
  · rfl
  · simp only [skipPc, if_true]; rw [BitVec.add_assoc]; rfl

/-- The index increment moves I and nothing else. -/
@[simp] theorem bumpIndex_eq (s : State) (x : RegIdx) : s.bumpIndex x = s.setIndex (nextIndex s.cfg s.index x) := rfl

/-- I after a dump or load. -/
theorem toNat_nextIndex (c : Config) (i : Word) (x : RegIdx) :
    (nextIndex c i x).toNat = if c.indexIncrement then (i.toNat + x.val + 1) % 65536 else i.toNat := by
  unfold nextIndex
  split <;> simp

/-- The end of a cycle that faulted adds nothing. -/
theorem endCycle_of_fault {t : State} {r : FaultRecord} (h : t.fault = some r) (w : Word) : t.endCycle w = t := by
  simp [State.endCycle, h]

/-- The end of a cycle that did not fault: OPCODE, RND and, in PerCycle mode, the timers. -/
theorem endCycle_of_ok {t : State} (h : t.fault = none) (w : Word) :
    t.endCycle w =
      match t.cfg.timerMode with
      | .hostTick => (t.setOpcode w).redraw
      | .perCycle => (t.setOpcode w).redraw.timerDecrement := by
  cases hm : t.cfg.timerMode <;> simp [State.endCycle, h, hm]

/-- A timer's value after one count. -/
theorem toNat_countDown (b : Byte) : (countDown b).toNat = b.toNat - 1 := by
  unfold countDown
  split
  · subst_vars; rfl
  · rename_i h
    have : b.toNat ≠ 0 := fun e => h (BitVec.eq_of_toNat_eq (by simpa using e))
    have := b.isLt
    rw [BitVec.toNat_sub]
    simp
    omega

/-- The block after Reset, whatever it was. -/
theorem resetBlock_eq (s : State) : s.resetBlock = { State.reset with cfg := s.cfg, draws := s.draws } := rfl

/-! ### Flags -/

@[simp] theorem toNat_flagBit (c : Bool) : (flagBit c).toNat = if c then 1 else 0 := by cases c <;> rfl

@[simp] theorem toNat_addResult (a b : Byte) : (addResult a b).toNat = (a.toNat + b.toNat) % 256 := by
  simp [addResult]

@[simp] theorem toNat_subResult (a b : Byte) : (subResult a b).toNat = (a.toNat + 256 - b.toNat) % 256 := by
  simp [subResult]

@[simp] theorem toNat_shrResult (a : Byte) : (shrResult a).toNat = a.toNat / 2 := by
  have := a.isLt
  simp [shrResult]; omega

@[simp] theorem toNat_shrFlag (a : Byte) : (shrFlag a).toNat = a.toNat % 2 := by
  simp [shrFlag]; omega

@[simp] theorem toNat_shlResult (a : Byte) : (shlResult a).toNat = a.toNat * 2 % 256 := by
  simp [shlResult]

@[simp] theorem toNat_shlFlag (a : Byte) : (shlFlag a).toNat = a.toNat / 128 := by
  have := a.isLt
  simp [shlFlag]; omega

/-- FlagOp with FLAG_ORDER = FlagLast, register by register. -/
theorem readReg_flagOp_last (x r : RegIdx) (f g : RegFile → Byte) (v : RegFile) :
    readReg (flagOp .flagLast x f g v) r =
      if r = flagReg then g v else if r = x then f v else readReg v r := by
  simp [flagOp]

/-- FlagOp with FLAG_ORDER = FlagFirst, register by register. -/
theorem readReg_flagOp_first (x r : RegIdx) (f g : RegFile → Byte) (v : RegFile) :
    readReg (flagOp .flagFirst x f g v) r =
      if r = x then f (writeReg v flagReg (g v)) else if r = flagReg then g v else readReg v r := by
  simp [flagOp]

end Sys2Proof.Machine
end

