-- ==== Sys2Proof/Laws/Draw.lean ====
section
/-! SUPPORT. The raster-write logic as a list of distinct cells (43_display.md R151, R155). -/

namespace Sys2Proof.Machine

/-- Where the set bits of one row land, columns left to right. -/
def rowCells (edge : DrawEdge) (x0 row : Nat) (b : Byte) : List (Nat × Nat) :=
  ((List.range 8).filter (spriteBit b)).map fun c => landing edge (x0 + c) row

/-- Where the set bits of all rows land, rows in ascending order. -/
def spriteCells (edge : DrawEdge) (x0 : Nat) : Nat → List Byte → List (Nat × Nat)
  | _, [] => []
  | row, b :: rest => rowCells edge x0 row b ++ spriteCells edge x0 (row + 1) rest

/-- A row is drawn by plotting its cells in turn. -/
theorem drawRow_eq (edge : DrawEdge) (x0 row : Nat) (b : Byte) (acc : Screen × Bool) :
    drawRow edge x0 row b acc = (rowCells edge x0 row b).foldl (fun a c => plot c a) acc := by
  simp [drawRow, rowCells, List.foldl_map, List.foldl_filter]

/-- A sprite is drawn by plotting its cells in turn. -/
theorem drawRows_eq (edge : DrawEdge) (x0 row : Nat) (bs : List Byte) (acc : Screen × Bool) :
    drawRows edge x0 row bs acc = (spriteCells edge x0 row bs).foldl (fun a c => plot c a) acc := by
  induction bs generalizing row acc with
  | nil => rfl
  | cons b rest ih => rw [drawRows, ih, spriteCells, List.foldl_append, drawRow_eq]

theorem mem_rowCells {edge : DrawEdge} {x0 row : Nat} {b : Byte} {p : Nat × Nat} :
    p ∈ rowCells edge x0 row b ↔ ∃ c, c < 8 ∧ spriteBit b c = true ∧ landing edge (x0 + c) row = p := by
  simp [rowCells, and_assoc]

/-- A cell of the sprite is where a set bit of some row lands. -/
theorem mem_spriteCells {edge : DrawEdge} {x0 row : Nat} {bs : List Byte} {p : Nat × Nat} :
    p ∈ spriteCells edge x0 row bs ↔
      ∃ r c, r < bs.length ∧ c < 8 ∧ spriteBit (bs.getD r 0) c = true ∧ landing edge (x0 + c) (row + r) = p := by
  induction bs generalizing row with
  | nil => simp [spriteCells]
  | cons b rest ih =>
    simp only [spriteCells, List.mem_append, mem_rowCells, ih, List.length_cons]
    constructor
    · rintro (⟨c, h1, h2, h3⟩ | ⟨r, c, h0, h1, h2, h3⟩)
      · exact ⟨0, c, by omega, h1, by simpa using h2, h3⟩
      · refine ⟨r + 1, c, by omega, h1, by simpa using h2, ?_⟩
        rw [← h3]; congr 1; omega
    · rintro ⟨r, c, h0, h1, h2, h3⟩
      cases r with
      | zero => exact .inl ⟨c, h1, by simpa using h2, h3⟩
      | succ r =>
        refine .inr ⟨r, c, by omega, h1, by simpa using h2, ?_⟩
        rw [← h3]; congr 1; omega

/-- Two sprite positions that land on one cell are the same position: no cell is reached twice (43_display.md R151). -/
theorem landing_inj {edge : DrawEdge} {x0 y0 r c r' c' : Nat} (hc : c < 8) (hc' : c' < 8) (hr : r < 32) (hr' : r' < 32)
    (h : landing edge (x0 + c) (y0 + r) = landing edge (x0 + c') (y0 + r')) : c = c' ∧ r = r' := by
  cases edge <;> simp only [landing, fbWidth, fbHeight, Prod.mk.injEq] at h <;> omega

theorem nodup_spriteCells (edge : DrawEdge) (x0 row : Nat) (bs : List Byte) (h : bs.length ≤ 32) :
    (spriteCells edge x0 row bs).Nodup := by
  induction bs generalizing row with
  | nil => simp [spriteCells]
  | cons b rest ih =>
    simp only [List.length_cons] at h
    rw [spriteCells, List.nodup_append]
    refine ⟨?_, ih (row + 1) (by omega), ?_⟩
    · refine List.Nodup.map_on ?_ (List.Nodup.filter _ List.nodup_range)
      intro c hc c' hc' e
      simp only [List.mem_filter, List.mem_range] at hc hc'
      exact (landing_inj (y0 := row) (r := 0) (r' := 0) hc.1 hc'.1 (by omega) (by omega) e).1
    · intro p hp q hq e
      subst e
      obtain ⟨c, h1, -, h3⟩ := mem_rowCells.1 hp
      obtain ⟨r, c', h0, h1', -, h3'⟩ := mem_spriteCells.1 hq
      have := landing_inj (y0 := row) (r := 0) (r' := r + 1) (x0 := x0) (edge := edge) h1 h1' (by omega) (by omega)
        (by rw [Nat.add_zero, h3, ← h3']; congr 1; omega)
      omega

/-- Plotting a list of distinct cells: each on-grid cell of the list is toggled once, the collision flag records whether one of
them was lit at the start. -/
theorem foldl_plot (cells : List (Nat × Nat)) (hn : cells.Nodup) (acc : Screen × Bool) :
    (∀ x y, cellAt (cells.foldl (fun a c => plot c a) acc).1 x y =
      if (x, y) ∈ cells ∧ x < 64 ∧ y < 32 then !cellAt acc.1 x y else cellAt acc.1 x y) ∧
    ((cells.foldl (fun a c => plot c a) acc).2 = true ↔
      acc.2 = true ∨ ∃ p ∈ cells, p.1 < 64 ∧ p.2 < 32 ∧ cellAt acc.1 p.1 p.2 = true) := by
  induction cells generalizing acc with
  | nil => simp
  | cons p rest ih =>
    rw [List.nodup_cons] at hn
    obtain ⟨ih1, ih2⟩ := ih hn.2 (plot p acc)
    have hcell : ∀ x y, cellAt (plot p acc).1 x y =
        if (x, y) = p ∧ x < 64 ∧ y < 32 then !cellAt acc.1 x y else cellAt acc.1 x y := by
      intro x y
      unfold plot
      by_cases hg : p.1 < fbWidth ∧ p.2 < fbHeight
      · simp only [hg]
        rw [if_pos ⟨trivial, trivial⟩, cellAt_toggleCell]
        simp only [fbWidth, fbHeight] at hg
        by_cases e : (x, y) = p
        · subst e; simp [hg.1, hg.2]
        · have : ¬ (x = p.1 ∧ y = p.2 ∧ p.1 < 64 ∧ p.2 < 32) := fun h => e (Prod.ext h.1 h.2.1)
          simp [e, this]
      · rw [if_neg hg]
        simp only [fbWidth, fbHeight] at hg
        have : ¬ ((x, y) = p ∧ x < 64 ∧ y < 32) := by rintro ⟨rfl, h1, h2⟩; exact hg ⟨h1, h2⟩
        rw [if_neg this]
    have hflag : (plot p acc).2 = true ↔ acc.2 = true ∨ (p.1 < 64 ∧ p.2 < 32 ∧ cellAt acc.1 p.1 p.2 = true) := by
      unfold plot
      by_cases hg : p.1 < fbWidth ∧ p.2 < fbHeight
      · simp only [fbWidth, fbHeight] at hg
        simp [fbWidth, fbHeight, hg.1, hg.2]
      · rw [if_neg hg]
        simp only [fbWidth, fbHeight] at hg
        constructor
        · exact .inl
        · rintro (h | h)
          · exact h
          · exact absurd ⟨h.1, h.2.1⟩ hg
    have hother : ∀ q ∈ rest, cellAt (plot p acc).1 q.1 q.2 = cellAt acc.1 q.1 q.2 := by
      intro q hq
      rw [hcell, if_neg]
      rintro ⟨rfl, -⟩
      exact hn.1 hq
    constructor
    · intro x y
      rw [List.foldl_cons, ih1, hcell]
      by_cases hp : (x, y) = p
      · have : (x, y) ∉ rest := fun h => hn.1 (hp ▸ h)
        have hm : (x, y) ∈ p :: rest := hp ▸ List.mem_cons_self
        simp only [this, false_and, if_false, hm, true_and]
        rw [if_congr (and_iff_right hp) rfl rfl]
      · simp [hp]
    · rw [List.foldl_cons, ih2, hflag]
      simp only [List.mem_cons, exists_eq_or_imp, or_assoc]
      refine or_congr_right (or_congr_right ?_)
      constructor
      · rintro ⟨q, hq, h1, h2, h3⟩
        exact ⟨q, hq, h1, h2, by rwa [hother q hq] at h3⟩
      · rintro ⟨q, hq, h1, h2, h3⟩
        exact ⟨q, hq, h1, h2, by rwa [hother q hq]⟩

end Sys2Proof.Machine
end

