-- ==== Sys2Proof/Laws/Exec.lean ====
section
/-! SUPPORT. Everything an instruction and a cycle can do, said once: when an instruction takes its fault, what each range-checked
instruction answers in range, and the two ways a cycle of an unfaulted block starts. -/

namespace Sys2Proof.Machine

/-- When an instruction takes a fault, and which (60_exceptions.md R180, R183): its one check, in the state before it. -/
inductive TakesFault (s : State) : Instr → FaultCause → Nat → Prop where
  | sys (nnn : Addr12) (h : s.cfg.unknownOpcode = .fault) : TakesFault s (.sys nnn) .invalidOpcode 0
  | call (nnn : Addr12) (h : 16 ≤ s.sp.toNat) : TakesFault s (.call nnn) .stackOverflow 0
  | ret (h : s.sp.toNat = 0) : TakesFault s .ret .stackUnderflow 0
  | drw (x y : RegIdx) (n : Nibble) (hn : 0 < n.val) (h : 4096 ≤ s.index.toNat + n.val - 1) :
      TakesFault s (.drw x y n) .dataOutOfRange (max s.index.toNat 4096)
  | ldBVx (x : RegIdx) (h : 4096 ≤ s.index.toNat + 2) :
      TakesFault s (.ldBVx x) .dataOutOfRange (max s.index.toNat 4096)
  | ldMemVx (x : RegIdx) (h : 4096 ≤ s.index.toNat + x.val) :
      TakesFault s (.ldMemVx x) .dataOutOfRange (max s.index.toNat 4096)
  | ldVxMem (x : RegIdx) (h : 4096 ≤ s.index.toNat + x.val) :
      TakesFault s (.ldVxMem x) .dataOutOfRange (max s.index.toNat 4096)

/-- An instruction that takes a fault answers the state before it with the fault latched. -/
theorem exec_of_takesFault {s : State} {i : Instr} {c : FaultCause} {a : Nat} (h : TakesFault s i c a) :
    exec i s = .next (s.latchFault ⟨c, s.pc, encode i, a⟩) := by
  cases h with
  | sys nnn h => simp [exec, execSys, unknownWord, h, takeFault]
  | call nnn h => simp [exec, execCall, stackDepth, h, takeFault]
  | ret h => simp [exec, execRet, h, takeFault]
  | drw x y n hn h =>
    have h0 : n.val ≠ 0 := by omega
    rw [exec, execDrw, if_neg h0]
    rcases guardRange_cases .dataOutOfRange s.index.toNat n.val (encode (.drw x y n)) s (.next (drawAndFlag s x y n))
      with ⟨h', -⟩ | ⟨-, e⟩
    · simp only [memSize] at h'; omega
    · exact e
  | ldBVx x h =>
    rw [exec, execLdBVx]
    rcases guardRange_cases .dataOutOfRange s.index.toNat 3 (encode (.ldBVx x)) s
      (.next (s.advance.setMem (memWriteBytes s.mem s.index.toNat (bcdDigits (s.reg x))))) with ⟨h', -⟩ | ⟨-, e⟩
    · simp only [memSize] at h'; omega
    · exact e
  | ldMemVx x h =>
    rw [exec, execLdMemVx]
    rcases guardRange_cases .dataOutOfRange s.index.toNat (x.val + 1) (encode (.ldMemVx x)) s
      (.next ((s.advance.setMem (memWriteBytes s.mem s.index.toNat (regBlock s.v x))).bumpIndex x)) with ⟨h', -⟩ | ⟨-, e⟩
    · simp only [memSize] at h'; omega
    · exact e
  | ldVxMem x h =>
    rw [exec, execLdVxMem]
    rcases guardRange_cases .dataOutOfRange s.index.toNat (x.val + 1) (encode (.ldVxMem x)) s
      (.next ((s.advance.setRegs (loadBlock s.v 0 (memReadBytes s.mem s.index.toNat (x.val + 1)))).bumpIndex x))
      with ⟨h', -⟩ | ⟨-, e⟩
    · simp only [memSize] at h'; omega
    · exact e

/-- LD B in range. -/
theorem exec_ldBVx_ok {s : State} {x : RegIdx} (h : s.index.toNat + 2 < 4096) :
    exec (.ldBVx x) s = .next (s.advance.setMem (memWriteBytes s.mem s.index.toNat (bcdDigits (s.reg x)))) := by
  rw [exec, execLdBVx]
  rcases guardRange_cases .dataOutOfRange s.index.toNat 3 (encode (.ldBVx x)) s
    (.next (s.advance.setMem (memWriteBytes s.mem s.index.toNat (bcdDigits (s.reg x))))) with ⟨-, e⟩ | ⟨h', -⟩
  · exact e
  · simp only [memSize] at h'; omega

/-- Register dump in range. -/
theorem exec_ldMemVx_ok {s : State} {x : RegIdx} (h : s.index.toNat + x.val < 4096) :
    exec (.ldMemVx x) s =
      .next ((s.advance.setMem (memWriteBytes s.mem s.index.toNat (regBlock s.v x))).bumpIndex x) := by
  rw [exec, execLdMemVx]
  rcases guardRange_cases .dataOutOfRange s.index.toNat (x.val + 1) (encode (.ldMemVx x)) s
    (.next ((s.advance.setMem (memWriteBytes s.mem s.index.toNat (regBlock s.v x))).bumpIndex x)) with ⟨-, e⟩ | ⟨h', -⟩
  · exact e
  · simp only [memSize] at h'; omega

/-- Register load in range. -/
theorem exec_ldVxMem_ok {s : State} {x : RegIdx} (h : s.index.toNat + x.val < 4096) :
    exec (.ldVxMem x) s =
      .next ((s.advance.setRegs (loadBlock s.v 0 (memReadBytes s.mem s.index.toNat (x.val + 1)))).bumpIndex x) := by
  rw [exec, execLdVxMem]
  rcases guardRange_cases .dataOutOfRange s.index.toNat (x.val + 1) (encode (.ldVxMem x)) s
    (.next ((s.advance.setRegs (loadBlock s.v 0 (memReadBytes s.mem s.index.toNat (x.val + 1)))).bumpIndex x))
    with ⟨-, e⟩ | ⟨h', -⟩
  · exact e
  · simp only [memSize] at h'; omega

/-- DRW with its sprite in memory, or with no rows. -/
theorem exec_drw_ok {s : State} {x y : RegIdx} {n : Nibble} (h : n.val = 0 ∨ s.index.toNat + n.val - 1 < 4096) :
    exec (.drw x y n) s = .next (drawAndFlag s x y n) := by
  rw [exec, execDrw]
  by_cases h0 : n.val = 0
  · rw [if_pos h0]
  · rw [if_neg h0]
    rcases guardRange_cases .dataOutOfRange s.index.toNat n.val (encode (.drw x y n)) s (.next (drawAndFlag s x y n))
      with ⟨-, e⟩ | ⟨h', -⟩
    · exact e
    · simp only [memSize] at h'; omega

/-- CALL with a free entry. -/
theorem exec_call_ok {s : State} {nnn : Addr12} (h : s.sp.toNat < 16) :
    exec (.call nnn) s =
      .next (((s.advance.setStackEntry s.sp.toNat s.advance.pc).setSp (s.sp + 1)).setPc (zext16 nnn)) := by
  have : ¬ s.sp.toNat ≥ stackDepth := by simp only [stackDepth]; omega
  rw [exec, execCall, if_neg this]

/-- RET with an entry in use. -/
theorem exec_ret_ok {s : State} (h0 : 0 < s.sp.toNat) (h : s.sp.toNat ≤ 16) :
    ∃ w, s.stackEntry (s.sp.toNat - 1) = some w ∧ exec .ret s = .next ((s.advance.setSp (s.sp - 1)).setPc w) := by
  have h1 : s.sp.toNat - 1 < 16 := by omega
  have h2 : s.sp.toNat ≠ 0 := by omega
  refine ⟨s.stack[s.sp.toNat - 1], by simp [h1], ?_⟩
  rw [exec, execRet, if_neg h2]
  simp [State.stackEntry, h1]

/-- Everything exec can do: it takes the instruction's fault; or RET finds no entry, with SP above 16; or it answers a next state
in which the fault latch, the parameters, the keypad and the draw counter are as before. -/
theorem exec_cases (i : Instr) (s : State) :
    (∃ c a, TakesFault s i c a ∧ exec i s = .next (s.latchFault ⟨c, s.pc, encode i, a⟩)) ∨
    (i = .ret ∧ 16 < s.sp.toNat ∧ exec i s = .fault .noStackEntry) ∨
    ((∀ c a, ¬ TakesFault s i c a) ∧ ∃ t, exec i s = .next t ∧ t.fault = s.fault ∧ t.cfg = s.cfg ∧ t.key = s.key ∧
      t.draws = s.draws ∧ t.opcode = s.opcode ∧ t.rnd = s.rnd) := by
  have hf : ∀ c a, TakesFault s i c a →
      (∃ c a, TakesFault s i c a ∧ exec i s = .next (s.latchFault ⟨c, s.pc, encode i, a⟩)) :=
    fun c a h => ⟨c, a, h, exec_of_takesFault h⟩
  cases i with
  | sys nnn =>
    rcases unknownWord_cases (encode (.sys nnn)) s with ⟨h, -⟩ | ⟨h, e⟩
    · exact .inl (hf _ _ (.sys nnn h))
    · refine .inr (.inr ⟨?_, _, e, rfl, rfl, rfl, rfl, rfl, rfl⟩)
      intro c a hc; cases hc; simp_all
  | call nnn =>
    by_cases h : 16 ≤ s.sp.toNat
    · exact .inl (hf _ _ (.call nnn h))
    · refine .inr (.inr ⟨?_, _, exec_call_ok (by omega), rfl, rfl, rfl, rfl, rfl, rfl⟩)
      intro c a hc; cases hc; omega
  | ret =>
    by_cases h0 : s.sp.toNat = 0
    · exact .inl (hf _ _ (.ret h0))
    · by_cases h : s.sp.toNat ≤ 16
      · obtain ⟨w, -, e⟩ := exec_ret_ok (s := s) (by omega) h
        refine .inr (.inr ⟨?_, _, e, rfl, rfl, rfl, rfl, rfl, rfl⟩)
        intro c a hc; cases hc; omega
      · refine .inr (.inl ⟨rfl, by omega, ?_⟩)
        have : ¬ s.sp.toNat - 1 < 16 := by omega
        simp [exec, execRet, h0, State.stackEntry, this]
  | drw x y n =>
    by_cases h : n.val = 0 ∨ s.index.toNat + n.val - 1 < 4096
    · refine .inr (.inr ⟨?_, _, exec_drw_ok h, rfl, rfl, rfl, rfl, rfl, rfl⟩)
      intro c a hc; cases hc; omega
    · exact .inl (hf _ _ (.drw x y n (by omega) (by omega)))
  | ldBVx x =>
    by_cases h : s.index.toNat + 2 < 4096
    · refine .inr (.inr ⟨?_, _, exec_ldBVx_ok h, rfl, rfl, rfl, rfl, rfl, rfl⟩)
      intro c a hc; cases hc; omega
    · exact .inl (hf _ _ (.ldBVx x (by omega)))
  | ldMemVx x =>
    by_cases h : s.index.toNat + x.val < 4096
    · refine .inr (.inr ⟨?_, _, exec_ldMemVx_ok h, ?_⟩)
      · intro c a hc; cases hc; omega
      · simp [bumpIndex_eq]
    · exact .inl (hf _ _ (.ldMemVx x (by omega)))
  | ldVxMem x =>
    by_cases h : s.index.toNat + x.val < 4096
    · refine .inr (.inr ⟨?_, _, exec_ldVxMem_ok h, ?_⟩)
      · intro c a hc; cases hc; omega
      · simp [bumpIndex_eq]
    · exact .inl (hf _ _ (.ldVxMem x (by omega)))
  | ldVxK x =>
    refine .inr (.inr ⟨(by intro c a hc; cases hc), ?_⟩)
    rw [exec, execLdVxK]
    cases firstPressed s.key with
    | none => exact ⟨_, rfl, rfl, rfl, rfl, rfl, rfl, rfl⟩
    | some k => exact ⟨_, rfl, rfl, rfl, rfl, rfl, rfl, rfl⟩
  | seImm x nn =>
    refine .inr (.inr ⟨(by intro c a hc; cases hc), _, rfl, ?_⟩)
    simp [skipIf_eq]
  | sneImm x nn =>
    refine .inr (.inr ⟨(by intro c a hc; cases hc), _, rfl, ?_⟩)
    simp [skipIf_eq]
  | seReg x y low =>
    refine .inr (.inr ⟨(by intro c a hc; cases hc), _, rfl, ?_⟩)
    simp [skipIf_eq]
  | sneReg x y low =>
    refine .inr (.inr ⟨(by intro c a hc; cases hc), _, rfl, ?_⟩)
    simp [skipIf_eq]
  | skp x =>
    refine .inr (.inr ⟨(by intro c a hc; cases hc), _, rfl, ?_⟩)
    simp [skipIf_eq]
  | sknp x =>
    refine .inr (.inr ⟨(by intro c a hc; cases hc), _, rfl, ?_⟩)
    simp [skipIf_eq]
  | _ => exact .inr (.inr ⟨(by intro c a hc; cases hc), _, rfl, rfl, rfl, rfl, rfl, rfl, rfl⟩)

/-! ### The cycle -/

/-- A fetch in range: the cycle runs the fetched word and ends. -/
theorem step_in {s : State} (h : s.fault = none) (hp : s.pc.toNat + 1 < 4096) : step s = runAndEnd s.fetchWord s := by
  simp only [step, cycle, h]
  rcases guardRange_cases .fetchOutOfRange s.pc.toNat 2 0 s (runAndEnd s.fetchWord s) with ⟨-, e⟩ | ⟨h', -⟩
  · exact e
  · simp only [memSize] at h'; omega

/-- A fetch that leaves memory: FetchOutOfRange, recorded with word 0. -/
theorem step_out {s : State} (h : s.fault = none) (hp : 4096 ≤ s.pc.toNat + 1) :
    step s = .next (s.latchFault ⟨.fetchOutOfRange, s.pc, 0, max s.pc.toNat 4096⟩) := by
  simp only [step, cycle, h]
  rcases guardRange_cases .fetchOutOfRange s.pc.toNat 2 0 s (runAndEnd s.fetchWord s) with ⟨h', -⟩ | ⟨-, e⟩
  · simp only [memSize] at h'; omega
  · exact e

/-- The end of a cycle leaves every field but OPCODE, RND, the draw counter and the timers. -/
theorem endCycle_fields (u : State) (w : Word) :
    (u.endCycle w).mem = u.mem ∧ (u.endCycle w).fb = u.fb ∧ (u.endCycle w).sp = u.sp ∧ (u.endCycle w).stack = u.stack ∧
    (u.endCycle w).key = u.key ∧ (u.endCycle w).v = u.v ∧ (u.endCycle w).index = u.index ∧ (u.endCycle w).pc = u.pc ∧
    (u.endCycle w).cfg = u.cfg ∧ (u.endCycle w).result = u.result ∧ (u.endCycle w).fault = u.fault := by
  unfold State.endCycle
  split
  · simp
  · split <;> simp

/-! ### The formats and the fields (30_encoding.md R71, R73) -/

/-- The fields of a word in format FA. -/
theorem fields_formatFA (op : Nat) (h : op < 16) (nnn : Addr12) :
    fieldNnn (formatFA op nnn) = nnn ∧ fieldOp (formatFA op nnn) = op := by
  have := nnn.isLt
  refine ⟨BitVec.eq_of_toNat_eq ?_, ?_⟩ <;>
    simp only [fieldNnn, fieldOp, formatFA, BitVec.toNat_ofNat] <;> omega

/-- The fields of a word in format FI or FX. -/
theorem fields_formatFI (op : Nat) (h : op < 16) (x : RegIdx) (n : Byte) :
    fieldX (formatFI op x n) = x ∧ fieldNn (formatFI op x n) = n ∧ fieldOp (formatFI op x n) = op := by
  have := n.isLt
  have := x.isLt
  refine ⟨Fin.ext ?_, BitVec.eq_of_toNat_eq ?_, ?_⟩ <;>
    simp only [fieldNn, fieldX, fieldOp, formatFI, BitVec.toNat_ofNat, Fin.val_ofNat] <;> omega

/-- The fields of a word in format FR or FD. -/
theorem fields_formatFR (op : Nat) (h : op < 16) (x y : RegIdx) (n : Nibble) :
    fieldX (formatFR op x y n) = x ∧ fieldY (formatFR op x y n) = y ∧ fieldN (formatFR op x y n) = n ∧
    fieldOp (formatFR op x y n) = op := by
  have := n.isLt
  have := x.isLt
  have := y.isLt
  refine ⟨Fin.ext ?_, Fin.ext ?_, Fin.ext ?_, ?_⟩ <;>
    simp only [fieldN, fieldX, fieldY, fieldOp, formatFR, BitVec.toNat_ofNat, Fin.val_ofNat] <;> omega

end Sys2Proof.Machine
end

