-- ==== Sys2Proof/Laws/PerInstr.lean ====
section
/-! SUPPORT. Statements about every instruction, one lemma per constructor. -/

namespace Sys2Proof.Laws.FamilyNibble

open Sys2Proof

/-- The top nibble of an instruction's word is the family nibble of its row in 30_encoding.md R76. -/
def Statement (i : Instr) : Prop := fieldOp (encode i) = i.family

theorem fieldOp_formatFA (op : Nat) (nnn : Addr12) (h : op < 16) : fieldOp (formatFA op nnn) = op := by
  have := nnn.isLt
  simp only [fieldOp, formatFA, BitVec.toNat_ofNat]
  omega

theorem fieldOp_formatFI (op : Nat) (x : RegIdx) (nn : Byte) (h : op < 16) : fieldOp (formatFI op x nn) = op := by
  have := nn.isLt
  have := x.isLt
  simp only [fieldOp, formatFI, BitVec.toNat_ofNat]
  omega

theorem fieldOp_formatFR (op : Nat) (x y : RegIdx) (n : Nibble) (h : op < 16) : fieldOp (formatFR op x y n) = op := by
  have := n.isLt
  have := y.isLt
  have := x.isLt
  simp only [fieldOp, formatFR, BitVec.toNat_ofNat]
  omega

theorem cls : Statement .cls := rfl

theorem ret : Statement .ret := rfl

theorem sys (nnn : Addr12) : Statement (.sys nnn) := fieldOp_formatFA 0x0 nnn (by decide)

theorem jp (nnn : Addr12) : Statement (.jp nnn) := fieldOp_formatFA 0x1 nnn (by decide)

theorem call (nnn : Addr12) : Statement (.call nnn) := fieldOp_formatFA 0x2 nnn (by decide)

theorem seImm (x : RegIdx) (nn : Byte) : Statement (.seImm x nn) := fieldOp_formatFI 0x3 x nn (by decide)

theorem sneImm (x : RegIdx) (nn : Byte) : Statement (.sneImm x nn) := fieldOp_formatFI 0x4 x nn (by decide)

theorem seReg (x y : RegIdx) (low : Nibble) : Statement (.seReg x y low) := fieldOp_formatFR 0x5 x y low (by decide)

theorem ldImm (x : RegIdx) (nn : Byte) : Statement (.ldImm x nn) := fieldOp_formatFI 0x6 x nn (by decide)

theorem addImm (x : RegIdx) (nn : Byte) : Statement (.addImm x nn) := fieldOp_formatFI 0x7 x nn (by decide)

theorem ldReg (x y : RegIdx) : Statement (.ldReg x y) := fieldOp_formatFR 0x8 x y 0x0 (by decide)

theorem orReg (x y : RegIdx) : Statement (.orReg x y) := fieldOp_formatFR 0x8 x y 0x1 (by decide)

theorem andReg (x y : RegIdx) : Statement (.andReg x y) := fieldOp_formatFR 0x8 x y 0x2 (by decide)

theorem xorReg (x y : RegIdx) : Statement (.xorReg x y) := fieldOp_formatFR 0x8 x y 0x3 (by decide)

theorem addReg (x y : RegIdx) : Statement (.addReg x y) := fieldOp_formatFR 0x8 x y 0x4 (by decide)

theorem sub (x y : RegIdx) : Statement (.sub x y) := fieldOp_formatFR 0x8 x y 0x5 (by decide)

theorem shr (x y : RegIdx) : Statement (.shr x y) := fieldOp_formatFR 0x8 x y 0x6 (by decide)

theorem subn (x y : RegIdx) : Statement (.subn x y) := fieldOp_formatFR 0x8 x y 0x7 (by decide)

theorem shl (x y : RegIdx) : Statement (.shl x y) := fieldOp_formatFR 0x8 x y 0xE (by decide)

theorem sneReg (x y : RegIdx) (low : Nibble) : Statement (.sneReg x y low) := fieldOp_formatFR 0x9 x y low (by decide)

theorem ldI (nnn : Addr12) : Statement (.ldI nnn) := fieldOp_formatFA 0xA nnn (by decide)

theorem jpV0 (nnn : Addr12) : Statement (.jpV0 nnn) := fieldOp_formatFA 0xB nnn (by decide)

theorem rnd (x : RegIdx) (nn : Byte) : Statement (.rnd x nn) := fieldOp_formatFI 0xC x nn (by decide)

theorem drw (x y : RegIdx) (n : Nibble) : Statement (.drw x y n) := fieldOp_formatFR 0xD x y n (by decide)

theorem skp (x : RegIdx) : Statement (.skp x) := fieldOp_formatFI 0xE x 0x9E (by decide)

theorem sknp (x : RegIdx) : Statement (.sknp x) := fieldOp_formatFI 0xE x 0xA1 (by decide)

theorem ldVxDt (x : RegIdx) : Statement (.ldVxDt x) := fieldOp_formatFI 0xF x 0x07 (by decide)

theorem ldVxK (x : RegIdx) : Statement (.ldVxK x) := fieldOp_formatFI 0xF x 0x0A (by decide)

theorem ldDtVx (x : RegIdx) : Statement (.ldDtVx x) := fieldOp_formatFI 0xF x 0x15 (by decide)

theorem ldStVx (x : RegIdx) : Statement (.ldStVx x) := fieldOp_formatFI 0xF x 0x18 (by decide)

theorem addIVx (x : RegIdx) : Statement (.addIVx x) := fieldOp_formatFI 0xF x 0x1E (by decide)

theorem ldFVx (x : RegIdx) : Statement (.ldFVx x) := fieldOp_formatFI 0xF x 0x29 (by decide)

theorem ldBVx (x : RegIdx) : Statement (.ldBVx x) := fieldOp_formatFI 0xF x 0x33 (by decide)

theorem ldMemVx (x : RegIdx) : Statement (.ldMemVx x) := fieldOp_formatFI 0xF x 0x55 (by decide)

theorem ldVxMem (x : RegIdx) : Statement (.ldVxMem x) := fieldOp_formatFI 0xF x 0x65 (by decide)

end Sys2Proof.Laws.FamilyNibble
end

