-- ==== Sys2Proof/Certificates/Slice0/Obligations.lean ====
section
/-! DEFINITION. The statements for the provers; each docstring names the rules of spec/ it formalises. Instruction words are
those of 30_encoding.md R76, most of which the spec marks as not in its source (notes/assumptions/15.md). -/

open Sys2Proof Sys2Proof.Machine

/-! ### Reset, the cycle, faults -/

/-- R200: Reset sets every piece of state to its reset value (R37) and clears FAULT, from any state, faulted or not; it always
succeeds and returns nothing. `State.reset` is such a state. -/
def Obligations.ResetClearsEveryPieceOfState : Prop :=
  (∀ s : State, ∃ t, operate .reset s = .next t ∧ reply .reset s t = .none) ∧
  ∀ t : State, t = State.reset ∨ (∃ s : State, operate .reset s = .next t) →
    (∀ r, t.reg r = 0) ∧ t.index = 0 ∧ t.pc = 0 ∧ t.sp = 0 ∧ (∀ k, k < 16 → t.stackEntry k = some 0) ∧
    t.dt = 0 ∧ t.st = 0 ∧ (∀ a, t.byteAt a = 0) ∧ (∀ x y, cellAt t.fb x y = false) ∧ (∀ k, t.keyLevel k = false) ∧
    t.opcode = 0 ∧ t.rnd = 0 ∧ t.fault = none

/-- The invariant holds right after Reset (R26, R37). -/
def Obligations.ResetMeetsInvariant : Prop := State.reset.Inv

/-- R93, R95: when the word at PC decodes to an instruction, the step is exec of that instruction, followed by the end of the
cycle that `State.endCycle` adds; what that end is, field by field, is CycleFollowsItsSequence. -/
def Obligations.StepRunsDecodedInstruction : Prop :=
  ∀ (s : State) (i : Instr), s.fault = none → s.pc.toNat + 1 < 4096 → decodeWord s.fetchWord = .known i →
    step s =
      match exec i s with
      | .next t => .next (t.endCycle s.fetchWord)
      | .fault e => .fault e
      | .refused e => .refused e

/-- R93: the whole sequence of a Cycle on a block that is not faulted: the fetch check, the unknown word, the instruction, and
then OPCODE, RND and the timers, unless the execute phase faulted. -/
def Obligations.CycleFollowsItsSequence : Prop :=
  ∀ s : State, s.fault = none →
    (4096 ≤ s.pc.toNat + 1 →
      ∃ t, step s = .next t ∧ TookFault .fetchOutOfRange 0 (max s.pc.toNat 4096) s t) ∧
    (s.pc.toNat + 1 < 4096 →
      ∀ u, (∃ w, decodeWord s.fetchWord = .unknown w ∧ unknownWord w s = .next u) ∨
          (∃ i, decodeWord s.fetchWord = .known i ∧ exec i s = .next u) →
        (u.fault ≠ none → step s = .next u) ∧
        (u.fault = none → ∃ t, step s = .next t ∧ t.opcode = s.fetchWord ∧
          t.rnd = Config.randomByte u.draws ∧ t.draws = u.draws + 1 ∧
          (u.cfg.timerMode = .hostTick → t.dt = u.dt ∧ t.st = u.st) ∧
          (u.cfg.timerMode = .perCycle → t.dt.toNat = u.dt.toNat - 1 ∧ t.st.toNat = u.st.toNat - 1) ∧
          KeepsAllBut [.opcode, .rnd, .draws, .dt, .st] u t))

/-- R92: a Cycle on a faulted block changes no state and returns the latched record again. -/
def Obligations.FaultedBlockIgnoresCycle : Prop :=
  ∀ (s : State) (r : FaultRecord), s.fault = some r →
    (∃ t, step s = .next t ∧ reply .cycle s t = .cycle (some (.fault r)) ∧ KeepsAllBut [.result] s t) ∧
    (s.Inv → step s = .next s)

/-- R182: fault entry. Everything the cycle did is undone, FAULT records cause, pc, word and addr, the cycle returns it, and
later Cycles and TimerTicks do nothing. -/
def Obligations.FaultsArePrecise : Prop :=
  ∀ s t : State, s.fault = none → step s = .next t → t.fault ≠ none →
    ∃ r, statusOutput t = (some r, some (.fault r)) ∧ t.fault = some r ∧ KeepsAllBut [.fault, .result] s t ∧
      r.pc = s.pc ∧ r.word = (if r.cause = .fetchOutOfRange then 0 else s.fetchWord) ∧
      r.addr = (match r.cause with
        | .fetchOutOfRange => max s.pc.toNat 4096
        | .dataOutOfRange => max s.index.toNat 4096
        | _ => 0) ∧
      step t = .next t ∧ operate .timerTick t = .next t

/-- R180: the causes, their codes, and exactly when each is raised. -/
def Obligations.OnlyTheListedEventsFault : Prop :=
  (faultCode none = 0 ∧ causeCode .romTooLarge = 1 ∧ causeCode .invalidOpcode = 2 ∧ causeCode .stackOverflow = 3 ∧
    causeCode .stackUnderflow = 4 ∧ causeCode .fetchOutOfRange = 5 ∧ causeCode .dataOutOfRange = 6) ∧
  (∀ (s : State) (rom : List Byte), ((loadRom s rom).2 = .romTooLarge ↔ rom.length > maxRomSize s.cfg) ∧
    (loadRom s rom).1.fault = s.fault) ∧
  ∀ s t : State, s.fault = none → s.sp.toNat ≤ 16 → step s = .next t →
    (∀ r, t.fault = some r → r.cause ≠ .romTooLarge ∧ (r.cause ≠ .fetchOutOfRange → r.cause ≠ .dataOutOfRange → r.addr = 0) ∧
      (r.cause = .fetchOutOfRange → r.addr = max s.pc.toNat 4096) ∧
      (r.cause = .dataOutOfRange → r.addr = max s.index.toNat 4096)) ∧
    ((∃ r, t.fault = some r ∧ r.cause = .fetchOutOfRange) ↔ 4096 ≤ s.pc.toNat + 1) ∧
    ((∃ r, t.fault = some r ∧ r.cause = .invalidOpcode) ↔ s.pc.toNat + 1 < 4096 ∧ s.cfg.unknownOpcode = .fault ∧
      ((∃ w, decodeWord s.fetchWord = .unknown w) ∨ ∃ nnn, decodeWord s.fetchWord = .known (.sys nnn))) ∧
    ((∃ r, t.fault = some r ∧ r.cause = .stackOverflow) ↔ s.pc.toNat + 1 < 4096 ∧ s.sp.toNat = 16 ∧
      ∃ nnn, decodeWord s.fetchWord = .known (.call nnn)) ∧
    ((∃ r, t.fault = some r ∧ r.cause = .stackUnderflow) ↔ s.pc.toNat + 1 < 4096 ∧ s.sp.toNat = 0 ∧
      decodeWord s.fetchWord = .known .ret) ∧
    ((∃ r, t.fault = some r ∧ r.cause = .dataOutOfRange) ↔ s.pc.toNat + 1 < 4096 ∧
      ((∃ x y n, decodeWord s.fetchWord = .known (.drw x y n) ∧ 0 < n.val ∧ 4096 ≤ s.index.toNat + n.val - 1) ∨
       (∃ x, decodeWord s.fetchWord = .known (.ldBVx x) ∧ 4096 ≤ s.index.toNat + 2) ∨
       (∃ x, decodeWord s.fetchWord = .known (.ldMemVx x) ∧ 4096 ≤ s.index.toNat + x.val) ∨
       (∃ x, decodeWord s.fetchWord = .known (.ldVxMem x) ∧ 4096 ≤ s.index.toNat + x.val)))

/-- From every state with SP in its range a step answers a next state: no fault of the host's interface, no refusal
(R26, R72, R95, R182). -/
def Obligations.StepAlwaysAnswersANextState : Prop :=
  ∀ s : State, s.sp.toNat ≤ 16 → ∃ t, step s = .next t

/-- Every step keeps the invariant: canonical memory, SP within 0..16, legal parameters, a latched fault shown (R26, R37,
R182). -/
def Obligations.StepKeepsInvariant : Prop :=
  ∀ s t : State, s.Inv → step s = .next t → t.Inv

/-- Every sequence of host operations (R90, R91) from a state that meets the invariant completes, and the state it ends in
meets the invariant. -/
def Obligations.EveryHostSequenceKeepsInvariant : Prop :=
  ∀ (ops : List Operation) (s : State), s.Inv → ∃ t, runOps ops s = .next t ∧ t.Inv

/-- No operation of the host and no instruction changes a parameter (R36). -/
def Obligations.ParametersNeverChange : Prop :=
  ∀ (o : Operation) (s t : State), operate o s = .next t → t.cfg = s.cfg

/-! ### Encoding -/

/-- Decoding the bytes of a well-formed instruction gives it back and leaves the bytes after it, every operand at every value
(R70, R76, R83). That SE and SNE between registers get their ignored low nibble back is the MODEL's choice, which keeps it as an
operand (notes/assumptions/9.md). -/
def Obligations.DecodeOfEncodeIsTheInstruction : Prop :=
  ∀ (i : Instr) (rest : List Byte), i.wf = true → decodeBytes (encodeBytes i ++ rest) = .ok (i, rest)

/-- A word that decodes to an instruction is that instruction's encoding, and the instruction is well-formed (R72, R76). That no
bit of a word 5xy_ or 9xy_ is dropped is the MODEL's choice: R81 says their low nibble is ignored, and the model keeps it as an
operand that no meaning reads (notes/assumptions/9.md). -/
def Obligations.EncodeOfDecodeIsTheWord : Prop :=
  ∀ (w : Word) (i : Instr), decodeWord w = .known i → encode i = w ∧ i.wf = true

/-- R76, R77, R78, R79, R80, R81: the opcode map over all 65536 words, and the ignored nibbles. -/
def Obligations.FamiliesDispatchAsTheMapSays : Prop :=
  (∀ nnn : Addr12,
    decodeWord (BitVec.ofNat 16 (0x1000 + nnn.toNat)) = .known (.jp nnn) ∧
    decodeWord (BitVec.ofNat 16 (0x2000 + nnn.toNat)) = .known (.call nnn) ∧
    decodeWord (BitVec.ofNat 16 (0xA000 + nnn.toNat)) = .known (.ldI nnn) ∧
    decodeWord (BitVec.ofNat 16 (0xB000 + nnn.toNat)) = .known (.jpV0 nnn)) ∧
  (∀ (x : Fin 16) (nn : Byte),
    decodeWord (BitVec.ofNat 16 (0x3000 + 256 * x.val + nn.toNat)) = .known (.seImm x nn) ∧
    decodeWord (BitVec.ofNat 16 (0x4000 + 256 * x.val + nn.toNat)) = .known (.sneImm x nn) ∧
    decodeWord (BitVec.ofNat 16 (0x6000 + 256 * x.val + nn.toNat)) = .known (.ldImm x nn) ∧
    decodeWord (BitVec.ofNat 16 (0x7000 + 256 * x.val + nn.toNat)) = .known (.addImm x nn) ∧
    decodeWord (BitVec.ofNat 16 (0xC000 + 256 * x.val + nn.toNat)) = .known (.rnd x nn)) ∧
  (∀ x y n : Fin 16,
    decodeWord (BitVec.ofNat 16 (0xD000 + 256 * x.val + 16 * y.val + n.val)) = .known (.drw x y n)) ∧
  (decodeWord 0x00E0 = .known .cls ∧ decodeWord 0x00EE = .known .ret ∧
    ∀ nnn : Addr12, nnn ≠ 0x0E0 → nnn ≠ 0x0EE → decodeWord (BitVec.ofNat 16 nnn.toNat) = .known (.sys nnn)) ∧
  (∀ x y n : Fin 16, decodeWord (BitVec.ofNat 16 (0x8000 + 256 * x.val + 16 * y.val + n.val)) =
    match n.val with
    | 0 => .known (.ldReg x y)
    | 1 => .known (.orReg x y)
    | 2 => .known (.andReg x y)
    | 3 => .known (.xorReg x y)
    | 4 => .known (.addReg x y)
    | 5 => .known (.sub x y)
    | 6 => .known (.shr x y)
    | 7 => .known (.subn x y)
    | 14 => .known (.shl x y)
    | _ => .unknown (BitVec.ofNat 16 (0x8000 + 256 * x.val + 16 * y.val + n.val))) ∧
  (∀ (x : Fin 16) (nn : Byte), decodeWord (BitVec.ofNat 16 (0xE000 + 256 * x.val + nn.toNat)) =
    if nn = 0x9E then .known (.skp x) else if nn = 0xA1 then .known (.sknp x)
    else .unknown (BitVec.ofNat 16 (0xE000 + 256 * x.val + nn.toNat))) ∧
  (∀ (x : Fin 16) (nn : Byte), decodeWord (BitVec.ofNat 16 (0xF000 + 256 * x.val + nn.toNat)) =
    if nn = 0x07 then .known (.ldVxDt x) else if nn = 0x0A then .known (.ldVxK x)
    else if nn = 0x15 then .known (.ldDtVx x) else if nn = 0x18 then .known (.ldStVx x)
    else if nn = 0x1E then .known (.addIVx x) else if nn = 0x29 then .known (.ldFVx x)
    else if nn = 0x33 then .known (.ldBVx x) else if nn = 0x55 then .known (.ldMemVx x)
    else if nn = 0x65 then .known (.ldVxMem x)
    else .unknown (BitVec.ofNat 16 (0xF000 + 256 * x.val + nn.toNat))) ∧
  (∀ x y low : Fin 16,
    decodeWord (BitVec.ofNat 16 (0x5000 + 256 * x.val + 16 * y.val + low.val)) = .known (.seReg x y low) ∧
    decodeWord (BitVec.ofNat 16 (0x9000 + 256 * x.val + 16 * y.val + low.val)) = .known (.sneReg x y low) ∧
    ∀ s : State, exec (.seReg x y low) s = exec (.seReg x y 0) s ∧ exec (.sneReg x y low) s = exec (.sneReg x y 0) s)

/-- R82: which words are unrecognized, SYS words included. -/
def Obligations.UnrecognizedWordsAreTheListedOnes : Prop :=
  ∀ w : Word,
    ((∃ u, decodeWord w = .unknown u) ∨ ∃ nnn, decodeWord w = .known (.sys nnn)) ↔
      (w.toNat < 0x1000 ∧ w ≠ 0x00E0 ∧ w ≠ 0x00EE) ∨
      (w.toNat / 4096 = 0x8 ∧ w.toNat % 16 ∈ [0x8, 0x9, 0xA, 0xB, 0xC, 0xD, 0xF]) ∨
      (w.toNat / 4096 = 0xE ∧ w.toNat % 256 ∉ [0x9E, 0xA1]) ∨
      (w.toNat / 4096 = 0xF ∧ w.toNat % 256 ∉ [0x07, 0x0A, 0x15, 0x18, 0x1E, 0x29, 0x33, 0x55, 0x65])

/-- Words written out from 30_encoding.md R76 and 95_test_vectors.md 2.1, the three of the source among them. -/
def Obligations.WrittenOutWordsDecode : Prop :=
  decodeWord 0x6A05 = .known (.ldImm 0xA 0x05) ∧ decodeWord 0x00EE = .known .ret ∧
  decodeWord 0x8014 = .known (.addReg 0x0 0x1) ∧ decodeWord 0xD125 = .known (.drw 0x1 0x2 0x5) ∧
  decodeWord 0x9ABF = .known (.sneReg 0xA 0xB 0xF) ∧ decodeWord 0xF265 = .known (.ldVxMem 0x2) ∧
  decodeWord 0xE19E = .known (.skp 0x1) ∧ decodeWord 0x01E0 = .known (.sys 0x1E0) ∧
  decodeWord 0x800C = .unknown 0x800C ∧ decodeWord 0xFF66 = .unknown 0xFF66

/-! ### Control transfer -/

/-- R110: SYS is an unrecognized word: InvalidOpcode under Fault, under NoOp nothing but PC + 2 and the result Unknown(w). -/
def Obligations.SysFollowsThePolicy : Prop :=
  ∀ nnn : Addr12, (nnn ≠ 0x0E0 → nnn ≠ 0x0EE → Encodes (.sys nnn) nnn.toNat) ∧
    ∀ s : State,
      (s.cfg.unknownOpcode = .noOp → ∃ t, exec (.sys nnn) s = .next t ∧ t.pc = s.pc + 2 ∧
        t.result = some (.unknown (BitVec.ofNat 16 nnn.toNat)) ∧ KeepsAllBut [.pc, .result] s t) ∧
      (s.cfg.unknownOpcode = .fault → ∃ t, exec (.sys nnn) s = .next t ∧
        TookFault .invalidOpcode (BitVec.ofNat 16 nnn.toNat) 0 s t)

/-- R181: a Cycle over an unrecognized word under each policy. -/
def Obligations.UnknownWordFollowsThePolicy : Prop :=
  ∀ s : State, s.fault = none → s.pc.toNat + 1 < 4096 →
    ((∃ w, decodeWord s.fetchWord = .unknown w) ∨ ∃ nnn, decodeWord s.fetchWord = .known (.sys nnn)) →
    (s.cfg.unknownOpcode = .fault → ∃ t, step s = .next t ∧ TookFault .invalidOpcode s.fetchWord 0 s t) ∧
    (s.cfg.unknownOpcode = .noOp → ∃ t, step s = .next t ∧ t.pc = s.pc + 2 ∧ t.fault = none ∧
      t.result = some (.unknown s.fetchWord) ∧ t.rnd = Config.randomByte s.draws ∧ t.draws = s.draws + 1 ∧
      (s.cfg.timerMode = .perCycle → t.dt.toNat = s.dt.toNat - 1 ∧ t.st.toNat = s.st.toNat - 1) ∧
      (s.cfg.timerMode = .hostTick → t.dt = s.dt ∧ t.st = s.st) ∧
      KeepsAllBut [.pc, .result, .opcode, .rnd, .draws, .dt, .st] s t)

/-- R112, R119: JP and JP V0; a target past 4094 faults at the next fetch. -/
def Obligations.JumpsSetPc : Prop :=
  ∀ nnn : Addr12, Encodes (.jp nnn) (0x1000 + nnn.toNat) ∧ Encodes (.jpV0 nnn) (0xB000 + nnn.toNat) ∧
    ∀ s : State,
      (∃ t, exec (.jp nnn) s = .next t ∧ t.pc.toNat = nnn.toNat ∧ t.result = some .executed ∧
        KeepsAllBut [.pc, .result] s t ∧ (nnn = 0xFFF → FaultsAtNextFetch t)) ∧
      (∃ t, exec (.jpV0 nnn) s = .next t ∧ t.pc.toNat = nnn.toNat + (s.reg 0).toNat ∧ t.result = some .executed ∧
        KeepsAllBut [.pc, .result] s t ∧ (4094 < nnn.toNat + (s.reg 0).toNat → FaultsAtNextFetch t))

/-- R113: CALL pushes the address after it and jumps; with 16 entries in use it raises StackOverflow. -/
def Obligations.CallPushesAndJumps : Prop :=
  ∀ nnn : Addr12, Encodes (.call nnn) (0x2000 + nnn.toNat) ∧
    ∀ s : State,
      (s.sp.toNat < 16 → ∃ t, exec (.call nnn) s = .next t ∧ t.stackEntry s.sp.toNat = some (s.pc + 2) ∧
        (∀ k, k ≠ s.sp.toNat → t.stackEntry k = s.stackEntry k) ∧ t.sp.toNat = s.sp.toNat + 1 ∧
        t.pc.toNat = nnn.toNat ∧ t.result = some .executed ∧ KeepsAllBut [.stack, .sp, .pc, .result] s t) ∧
      (16 ≤ s.sp.toNat → ∃ t, exec (.call nnn) s = .next t ∧
        TookFault .stackOverflow (BitVec.ofNat 16 (0x2000 + nnn.toNat)) 0 s t)

/-- R114: RET pops; with no entry in use it raises StackUnderflow; the popped entry keeps its value. -/
def Obligations.ReturnPopsPc : Prop :=
  Encodes .ret 0x00EE ∧
    ∀ s : State,
      (0 < s.sp.toNat → s.sp.toNat ≤ 16 → ∃ t, exec .ret s = .next t ∧ s.stackEntry (s.sp.toNat - 1) = some t.pc ∧
        t.sp.toNat = s.sp.toNat - 1 ∧ t.result = some .executed ∧ KeepsAllBut [.sp, .pc, .result] s t) ∧
      (s.sp.toNat = 0 → ∃ t, exec .ret s = .next t ∧ TookFault .stackUnderflow 0x00EE 0 s t)

/-- The MODEL's choice (notes/assumptions/6.md): with SP above 16, which R26 excludes, STACK[SP - 1] does not exist and RET stops
with noStackEntry. -/
def Obligations.ReturnWithoutEntryStops : Prop :=
  ∀ s : State, 16 < s.sp.toNat → exec .ret s = .fault .noStackEntry

/-- A subroutine that leaves SP and its stack entry alone returns to the word after its CALL (R113, R114). -/
def Obligations.ReturnResumesAfterCall : Prop :=
  ∀ (s t u : State) (nnn : Addr12), s.sp.toNat < 16 → exec (.call nnn) s = .next t → u.sp = t.sp →
    u.stackEntry s.sp.toNat = t.stackEntry s.sp.toNat →
    ∃ v, exec .ret u = .next v ∧ v.pc = s.pc + 2 ∧ v.sp = s.sp

/-- R115, R116: the skips against an immediate; a taken skip leaves PC at own address + 4. -/
def Obligations.ImmediateSkips : Prop :=
  ∀ (x : RegIdx) (nn : Byte),
    Encodes (.seImm x nn) (0x3000 + 256 * x.val + nn.toNat) ∧ Encodes (.sneImm x nn) (0x4000 + 256 * x.val + nn.toNat) ∧
    ∀ s : State,
      (∃ t, exec (.seImm x nn) s = .next t ∧ t.pc = (if s.reg x = nn then s.pc + 4 else s.pc + 2) ∧
        t.result = some .executed ∧ KeepsAllBut [.pc, .result] s t) ∧
      (∃ t, exec (.sneImm x nn) s = .next t ∧ t.pc = (if s.reg x = nn then s.pc + 2 else s.pc + 4) ∧
        t.result = some .executed ∧ KeepsAllBut [.pc, .result] s t)

/-- R117, R118: the skips between registers, whatever the low nibble. -/
def Obligations.RegisterSkips : Prop :=
  ∀ (x y : RegIdx) (low : Nibble),
    Encodes (.seReg x y low) (0x5000 + 256 * x.val + 16 * y.val + low.val) ∧
    Encodes (.sneReg x y low) (0x9000 + 256 * x.val + 16 * y.val + low.val) ∧
    ∀ s : State,
      (∃ t, exec (.seReg x y low) s = .next t ∧ t.pc = (if s.reg x = s.reg y then s.pc + 4 else s.pc + 2) ∧
        t.result = some .executed ∧ KeepsAllBut [.pc, .result] s t) ∧
      (∃ t, exec (.sneReg x y low) s = .next t ∧ t.pc = (if s.reg x = s.reg y then s.pc + 2 else s.pc + 4) ∧
        t.result = some .executed ∧ KeepsAllBut [.pc, .result] s t)

/-! ### Register arithmetic and logic -/

/-- R132, R133: LD Vx, nn; ADD Vx, nn. -/
def Obligations.ImmediateInstructions : Prop :=
  ∀ (x : RegIdx) (nn : Byte),
    Encodes (.ldImm x nn) (0x6000 + 256 * x.val + nn.toNat) ∧ Encodes (.addImm x nn) (0x7000 + 256 * x.val + nn.toNat) ∧
    ∀ s : State,
      (∃ t, exec (.ldImm x nn) s = .next t ∧ t.reg x = nn ∧ KeepsRegsBut [x] s t ∧ WentOn [.v] s t) ∧
      (∃ t, exec (.addImm x nn) s = .next t ∧ (t.reg x).toNat = ((s.reg x).toNat + nn.toNat) % 256 ∧
        KeepsRegsBut [x] s t ∧ WentOn [.v] s t)

/-- R143: RND Vx, nn uses the latch as it stands at the start of the execute phase: the byte the previous cycle, or Load, drew;
the cycle that runs it draws another. The bytes are free values, so this holds for every sequence of draws. -/
def Obligations.RandomAndImmediate : Prop :=
  ∀ (x : RegIdx) (nn : Byte), Encodes (.rnd x nn) (0xC000 + 256 * x.val + nn.toNat) ∧
    (∀ s : State, ∃ t, exec (.rnd x nn) s = .next t ∧
      (∀ k, k < 8 → (t.reg x).getLsbD k = (s.rnd.getLsbD k && nn.getLsbD k)) ∧ KeepsRegsBut [x] s t ∧ WentOn [.v] s t) ∧
    ∀ s t : State, t.fault = none →
      (s.fault = none ∧ step s = .next t ∨
        ∃ rom, rom.length ≤ maxRomSize s.cfg ∧ operate (.load rom) s = .next t) →
      t.pc.toNat + 1 < 4096 → decodeWord t.fetchWord = .known (.rnd x nn) →
      ∃ u, step t = .next u ∧
        (∀ k, k < 8 → (u.reg x).getLsbD k = ((Config.randomByte s.draws).getLsbD k && nn.getLsbD k)) ∧
        u.rnd = Config.randomByte (s.draws + 1)

/-- R134 to R137: LD Vx, Vy and the bitwise operations, bit by bit. -/
def Obligations.MoveAndBitwise : Prop :=
  ∀ x y : RegIdx,
    Encodes (.ldReg x y) (0x8000 + 256 * x.val + 16 * y.val) ∧ Encodes (.orReg x y) (0x8001 + 256 * x.val + 16 * y.val) ∧
    Encodes (.andReg x y) (0x8002 + 256 * x.val + 16 * y.val) ∧ Encodes (.xorReg x y) (0x8003 + 256 * x.val + 16 * y.val) ∧
    ∀ s : State,
      (∃ t, exec (.ldReg x y) s = .next t ∧ t.reg x = s.reg y ∧ KeepsRegsBut [x] s t ∧ WentOn [.v] s t) ∧
      (∃ t, exec (.orReg x y) s = .next t ∧
        (∀ k, k < 8 → (t.reg x).getLsbD k = ((s.reg x).getLsbD k || (s.reg y).getLsbD k)) ∧
        KeepsRegsBut [x] s t ∧ WentOn [.v] s t) ∧
      (∃ t, exec (.andReg x y) s = .next t ∧
        (∀ k, k < 8 → (t.reg x).getLsbD k = ((s.reg x).getLsbD k && (s.reg y).getLsbD k)) ∧
        KeepsRegsBut [x] s t ∧ WentOn [.v] s t) ∧
      (∃ t, exec (.xorReg x y) s = .next t ∧
        (∀ k, k < 8 → (t.reg x).getLsbD k = Bool.xor ((s.reg x).getLsbD k) ((s.reg y).getLsbD k)) ∧
        KeepsRegsBut [x] s t ∧ WentOn [.v] s t)

/-- R138: ADD Vx, Vy under both flag orders, VF as destination or operand included. -/
def Obligations.AddRegistersWithCarry : Prop :=
  ∀ x y : RegIdx, Encodes (.addReg x y) (0x8004 + 256 * x.val + 16 * y.val) ∧
    ∀ (s : State) (a b c : Nat), a = (s.reg x).toNat → b = (s.reg y).toNat → c = (if a + b > 255 then 1 else 0) →
      ∃ t, exec (.addReg x y) s = .next t ∧ KeepsRegsBut [x, 0xF] s t ∧ WentOn [.v] s t ∧
        (s.cfg.flagOrder = .flagLast →
          (t.reg 0xF).toNat = c ∧ (x ≠ 0xF → (t.reg x).toNat = (a + b) % 256)) ∧
        (s.cfg.flagOrder = .flagFirst →
          (t.reg x).toNat = ((if x = 0xF then c else a) + (if y = 0xF then c else b)) % 256 ∧
          (x ≠ 0xF → (t.reg 0xF).toNat = c))

/-- R139: SUB Vx, Vy, the strict flag, both flag orders. -/
def Obligations.SubtractWithStrictFlag : Prop :=
  ∀ x y : RegIdx, Encodes (.sub x y) (0x8005 + 256 * x.val + 16 * y.val) ∧
    ∀ (s : State) (a b c : Nat), a = (s.reg x).toNat → b = (s.reg y).toNat → c = (if a > b then 1 else 0) →
      ∃ t, exec (.sub x y) s = .next t ∧ KeepsRegsBut [x, 0xF] s t ∧ WentOn [.v] s t ∧
        (s.cfg.flagOrder = .flagLast →
          (t.reg 0xF).toNat = c ∧ (x ≠ 0xF → ((t.reg x).toNat : Int) = ((a : Int) - b) % 256)) ∧
        (s.cfg.flagOrder = .flagFirst →
          ((t.reg x).toNat : Int) = (((if x = 0xF then c else a : Nat) : Int) - (if y = 0xF then c else b : Nat)) % 256 ∧
          (x ≠ 0xF → (t.reg 0xF).toNat = c))

/-- R140: SUBN Vx, Vy, the reversed subtraction. -/
def Obligations.SubtractReversedWithStrictFlag : Prop :=
  ∀ x y : RegIdx, Encodes (.subn x y) (0x8007 + 256 * x.val + 16 * y.val) ∧
    ∀ (s : State) (a b c : Nat), a = (s.reg x).toNat → b = (s.reg y).toNat → c = (if b > a then 1 else 0) →
      ∃ t, exec (.subn x y) s = .next t ∧ KeepsRegsBut [x, 0xF] s t ∧ WentOn [.v] s t ∧
        (s.cfg.flagOrder = .flagLast →
          (t.reg 0xF).toNat = c ∧ (x ≠ 0xF → ((t.reg x).toNat : Int) = ((b : Int) - a) % 256)) ∧
        (s.cfg.flagOrder = .flagFirst →
          ((t.reg x).toNat : Int) = (((if y = 0xF then c else b : Nat) : Int) - (if x = 0xF then c else a : Nat)) % 256 ∧
          (x ≠ 0xF → (t.reg 0xF).toNat = c))

/-- R141: SHR, under both shift sources and both flag orders. -/
def Obligations.ShiftRightByOne : Prop :=
  ∀ x y : RegIdx, Encodes (.shr x y) (0x8006 + 256 * x.val + 16 * y.val) ∧
    ∀ (s : State) (src : RegIdx) (a : Nat),
      (s.cfg.shiftSource = .x → src = x) → (s.cfg.shiftSource = .y → src = y) → a = (s.reg src).toNat →
      ∃ t, exec (.shr x y) s = .next t ∧ KeepsRegsBut [x, 0xF] s t ∧ WentOn [.v] s t ∧
        (s.cfg.flagOrder = .flagLast →
          (t.reg 0xF).toNat = a % 2 ∧ (x ≠ 0xF → (t.reg x).toNat = a / 2)) ∧
        (s.cfg.flagOrder = .flagFirst →
          (t.reg x).toNat = (if src = 0xF then a % 2 else a) / 2 ∧ (x ≠ 0xF → (t.reg 0xF).toNat = a % 2))

/-- R142: SHL, under both shift sources and both flag orders. -/
def Obligations.ShiftLeftByOne : Prop :=
  ∀ x y : RegIdx, Encodes (.shl x y) (0x800E + 256 * x.val + 16 * y.val) ∧
    ∀ (s : State) (src : RegIdx) (a c : Nat),
      (s.cfg.shiftSource = .x → src = x) → (s.cfg.shiftSource = .y → src = y) → a = (s.reg src).toNat →
      c = (if 128 ≤ a then 1 else 0) →
      ∃ t, exec (.shl x y) s = .next t ∧ KeepsRegsBut [x, 0xF] s t ∧ WentOn [.v] s t ∧
        (s.cfg.flagOrder = .flagLast →
          (t.reg 0xF).toNat = c ∧ (x ≠ 0xF → (t.reg x).toNat = 2 * a % 256)) ∧
        (s.cfg.flagOrder = .flagFirst →
          (t.reg x).toNat = 2 * (if src = 0xF then c else a) % 256 ∧ (x ≠ 0xF → (t.reg 0xF).toNat = c))

/-- Two blocks that differ only in FLAG_ORDER give the same registers for every flag-setting ALU instruction whose register
operands are not VF (R131). -/
def Obligations.FlagOrdersAgreeAwayFromVF : Prop :=
  ∀ (s s' t t' : State) (x y : RegIdx) (i : Instr), x ≠ 0xF → y ≠ 0xF →
    i ∈ [Instr.addReg x y, .sub x y, .subn x y, .shr x y, .shl x y] →
    (∀ r, s'.reg r = s.reg r) → s'.cfg.shiftSource = s.cfg.shiftSource →
    exec i s = .next t → exec i s' = .next t' → ∀ r, t'.reg r = t.reg r

/-! ### Display -/

/-- R150: CLS. -/
def Obligations.ClearDisplay : Prop :=
  Encodes .cls 0x00E0 ∧
    ∀ s : State, ∃ t, exec .cls s = .next t ∧ (∀ x y, cellAt t.fb x y = false) ∧ WentOn [.fb] s t

/-- R151 to R156: DRW. Every grid cell some set sprite bit reaches is toggled, every other cell is left; VF is 1 exactly when a
reached cell was lit; the start position wraps; cells past the edge are clipped or wrapped; n = 0 draws nothing and sets VF to 0;
a sprite that leaves memory faults. -/
def Obligations.DrawTogglesTheSpriteCells : Prop :=
  ∀ (x y : RegIdx) (n : Nibble), Encodes (.drw x y n) (0xD000 + 256 * x.val + 16 * y.val + n.val) ∧
    ∀ s : State,
      (n = 0 ∨ s.index.toNat + n.val ≤ 4096 → ∃ t, exec (.drw x y n) s = .next t ∧
        (∀ cx cy, SpriteCovers s x y n cx cy → cellAt t.fb cx cy = !cellAt s.fb cx cy) ∧
        (∀ cx cy, ¬ SpriteCovers s x y n cx cy → cellAt t.fb cx cy = cellAt s.fb cx cy) ∧
        ((∃ cx cy, SpriteCovers s x y n cx cy ∧ cellAt s.fb cx cy = true) → t.reg 0xF = 1) ∧
        ((∀ cx cy, SpriteCovers s x y n cx cy → cellAt s.fb cx cy = false) → t.reg 0xF = 0) ∧
        KeepsRegsBut [0xF] s t ∧ WentOn [.fb, .v] s t) ∧
      (n ≠ 0 → 4096 < s.index.toNat + n.val → ∃ t, exec (.drw x y n) s = .next t ∧
        TookFault .dataOutOfRange (BitVec.ofNat 16 (0xD000 + 256 * x.val + 16 * y.val + n.val)) (max s.index.toNat 4096) s t)

/-- Drawing the same sprite twice restores every cell, and the second draw collides exactly when some set bit lies on the grid
(R151's example, L1.8). -/
def Obligations.DrawTwiceRestoresTheScreen : Prop :=
  ∀ (s t u : State) (x y : RegIdx) (n : Nibble), x ≠ 0xF → y ≠ 0xF → (n = 0 ∨ s.index.toNat + n.val ≤ 4096) →
    exec (.drw x y n) s = .next t → exec (.drw x y n) t = .next u →
    (∀ cx cy, cellAt u.fb cx cy = cellAt s.fb cx cy) ∧
    ((∀ cx cy, cellAt s.fb cx cy = false) → (u.reg 0xF = 1 ↔ ∃ cx cy, SpriteCovers s x y n cx cy))

/-! ### Index register and memory -/

/-- R160, R161, R162: LD I, ADD I, LD F; the glyph address is not masked. -/
def Obligations.IndexInstructions : Prop :=
  (∀ nnn : Addr12, Encodes (.ldI nnn) (0xA000 + nnn.toNat) ∧
    ∀ s : State, ∃ t, exec (.ldI nnn) s = .next t ∧ t.index.toNat = nnn.toNat ∧ WentOn [.index] s t) ∧
  ∀ x : RegIdx, Encodes (.addIVx x) (0xF01E + 256 * x.val) ∧ Encodes (.ldFVx x) (0xF029 + 256 * x.val) ∧
    ∀ s : State,
      (∃ t, exec (.addIVx x) s = .next t ∧ t.index.toNat = (s.index.toNat + (s.reg x).toNat) % 65536 ∧
        WentOn [.index] s t) ∧
      (∃ t, exec (.ldFVx x) s = .next t ∧ WentOn [.index] s t ∧
        (configWf s.cfg = true → t.index.toNat = s.cfg.fontBase + 5 * (s.reg x).toNat))

/-- R163: LD B. -/
def Obligations.StoreBcdDigits : Prop :=
  ∀ x : RegIdx, Encodes (.ldBVx x) (0xF033 + 256 * x.val) ∧
    ∀ s : State, memWf s.mem = true →
      (s.index.toNat + 2 < 4096 → ∃ t, exec (.ldBVx x) s = .next t ∧ WentOn [.mem] s t ∧
        (t.byteAt s.index.toNat).toNat = (s.reg x).toNat / 100 ∧
        (t.byteAt (s.index.toNat + 1)).toNat = (s.reg x).toNat / 10 % 10 ∧
        (t.byteAt (s.index.toNat + 2)).toNat = (s.reg x).toNat % 10 ∧
        ∀ a, a < s.index.toNat ∨ s.index.toNat + 2 < a → t.byteAt a = s.byteAt a) ∧
      (4096 ≤ s.index.toNat + 2 → ∃ t, exec (.ldBVx x) s = .next t ∧
        TookFault .dataOutOfRange (BitVec.ofNat 16 (0xF033 + 256 * x.val)) (max s.index.toNat 4096) s t)

/-- R164: register dump, with and without the index increment. -/
def Obligations.RegisterDump : Prop :=
  ∀ x : RegIdx, Encodes (.ldMemVx x) (0xF055 + 256 * x.val) ∧
    ∀ s : State, memWf s.mem = true →
      (s.index.toNat + x.val < 4096 → ∃ t, exec (.ldMemVx x) s = .next t ∧ WentOn [.mem, .index] s t ∧
        (∀ r : RegIdx, r ≤ x → t.byteAt (s.index.toNat + r.val) = s.reg r) ∧
        (∀ a, a < s.index.toNat ∨ s.index.toNat + x.val < a → t.byteAt a = s.byteAt a) ∧
        t.index.toNat = (if s.cfg.indexIncrement then (s.index.toNat + x.val + 1) % 65536 else s.index.toNat)) ∧
      (4096 ≤ s.index.toNat + x.val → ∃ t, exec (.ldMemVx x) s = .next t ∧
        TookFault .dataOutOfRange (BitVec.ofNat 16 (0xF055 + 256 * x.val)) (max s.index.toNat 4096) s t)

/-- R165: register load, with and without the index increment. -/
def Obligations.RegisterLoad : Prop :=
  ∀ x : RegIdx, Encodes (.ldVxMem x) (0xF065 + 256 * x.val) ∧
    ∀ s : State,
      (s.index.toNat + x.val < 4096 → ∃ t, exec (.ldVxMem x) s = .next t ∧ WentOn [.v, .index] s t ∧
        (∀ r : RegIdx, t.reg r = if r ≤ x then s.byteAt (s.index.toNat + r.val) else s.reg r) ∧
        t.index.toNat = (if s.cfg.indexIncrement then (s.index.toNat + x.val + 1) % 65536 else s.index.toNat)) ∧
      (4096 ≤ s.index.toNat + x.val → ∃ t, exec (.ldVxMem x) s = .next t ∧
        TookFault .dataOutOfRange (BitVec.ofNat 16 (0xF065 + 256 * x.val)) (max s.index.toNat 4096) s t)

/-- A register load after a dump of the same block from the same index restores V0 to Vx, whatever happened to the registers in
between (R164, R165: "inverse of dump"). -/
def Obligations.LoadAfterDumpRestoresRegisters : Prop :=
  ∀ (s t u v : State) (x : RegIdx), memWf s.mem = true → s.index.toNat + x.val < 4096 →
    exec (.ldMemVx x) s = .next t → (∀ a, u.byteAt a = t.byteAt a) → u.index = s.index →
    exec (.ldVxMem x) u = .next v → ∀ r : RegIdx, r ≤ x → v.reg r = s.reg r

/-- Two canonical memories that read alike at every address are the same data (R30, R37: an unlisted address holds 0). -/
def Obligations.CanonicalMemoriesAreEqualData : Prop :=
  ∀ m m' : MemCells, memWf m = true → memWf m' = true → (∀ a, memRead m a = memRead m' a) → m = m'

/-- R65: a store is seen by the very next fetch: after a register dump over the word the next Cycle fetches, that Cycle fetches
V0 and V1 (and never the old word). -/
def Obligations.NextFetchSeesTheStore : Prop :=
  ∀ (s t : State) (x : RegIdx), memWf s.mem = true → s.fault = none → s.pc.toNat + 1 < 4096 → 1 ≤ x.val →
    decodeWord s.fetchWord = .known (.ldMemVx x) → s.index.toNat + x.val < 4096 → s.index = s.pc + 2 →
    step s = .next t →
    t.fetchWord.toNat = 256 * (s.reg 0).toNat + (s.reg 1).toNat

/-! ### Timers and keys -/

/-- R170, R172, R173: the timer moves. The values, and the sound output after LD ST, are those of the state exec answers, before the
end of the cycle; in PerCycle mode that end counts the timers down once more (CycleMovesTimersByMode), so that the sound output
of a written 1 is then 0. -/
def Obligations.TimerRegisterMoves : Prop :=
  ∀ x : RegIdx, Encodes (.ldVxDt x) (0xF007 + 256 * x.val) ∧ Encodes (.ldDtVx x) (0xF015 + 256 * x.val) ∧
    Encodes (.ldStVx x) (0xF018 + 256 * x.val) ∧
    ∀ s : State,
      (∃ t, exec (.ldVxDt x) s = .next t ∧ t.reg x = s.dt ∧ KeepsRegsBut [x] s t ∧ WentOn [.v] s t) ∧
      (∃ t, exec (.ldDtVx x) s = .next t ∧ t.dt = s.reg x ∧ WentOn [.dt] s t) ∧
      (∃ t, exec (.ldStVx x) s = .next t ∧ t.st = s.reg x ∧ WentOn [.st] s t ∧
        (soundOutput t = true ↔ s.reg x ≠ 0))

/-- R171, R174, R175: the key skips test the key named by the low four bits of Vx. -/
def Obligations.KeySkips : Prop :=
  ∀ x : RegIdx, Encodes (.skp x) (0xE09E + 256 * x.val) ∧ Encodes (.sknp x) (0xE0A1 + 256 * x.val) ∧
    ∀ (s : State) (k : Fin 16), k.val = (s.reg x).toNat % 16 →
      (∃ t, exec (.skp x) s = .next t ∧ t.pc = (if s.keyLevel k = true then s.pc + 4 else s.pc + 2) ∧
        t.result = some .executed ∧ KeepsAllBut [.pc, .result] s t) ∧
      (∃ t, exec (.sknp x) s = .next t ∧ t.pc = (if s.keyLevel k = true then s.pc + 2 else s.pc + 4) ∧
        t.result = some .executed ∧ KeepsAllBut [.pc, .result] s t)

/-- R176: LD Vx, K takes the least pressed key, or leaves PC at its own address. -/
def Obligations.WaitForKeyTakesTheLeastPressed : Prop :=
  ∀ x : RegIdx, Encodes (.ldVxK x) (0xF00A + 256 * x.val) ∧
    ∀ s : State,
      (∀ k : Fin 16, s.keyLevel k = true → (∀ j : Fin 16, j < k → s.keyLevel j = false) →
        ∃ t, exec (.ldVxK x) s = .next t ∧ (t.reg x).toNat = k.val ∧ KeepsRegsBut [x] s t ∧ WentOn [.v] s t) ∧
      ((∀ k : Fin 16, s.keyLevel k = false) →
        ∃ t, exec (.ldVxK x) s = .next t ∧ t.result = some .executed ∧ KeepsAllBut [.result] s t)

/-- While no key is pressed a waiting block stays waiting: each Cycle returns Executed and moves only OPCODE, RND and, in PerCycle
mode, the timers (R176, R204, R207). -/
def Obligations.WaitingBlockKeepsWaiting : Prop :=
  ∀ s : State, waitingForKey s = true → ∃ t, step s = .next t ∧ waitingForKey t = true ∧ t.result = some .executed ∧
    KeepsAllBut [.opcode, .rnd, .draws, .dt, .st, .result] s t ∧
    (s.cfg.timerMode = .hostTick → t.dt = s.dt ∧ t.st = s.st)

/-- R97: when the timers move within a Cycle. -/
def Obligations.CycleMovesTimersByMode : Prop :=
  ∀ s t : State, s.fault = none → step s = .next t → t.fault = none →
    (s.cfg.timerMode = .hostTick →
      (∀ x, decodeWord s.fetchWord = .known (.ldDtVx x) → t.dt = s.reg x) ∧
      (∀ x, decodeWord s.fetchWord = .known (.ldStVx x) → t.st = s.reg x) ∧
      ((∀ x, decodeWord s.fetchWord ≠ .known (.ldDtVx x)) → t.dt = s.dt) ∧
      ((∀ x, decodeWord s.fetchWord ≠ .known (.ldStVx x)) → t.st = s.st)) ∧
    (s.cfg.timerMode = .perCycle →
      (∀ x, decodeWord s.fetchWord = .known (.ldDtVx x) → t.dt.toNat = (s.reg x).toNat - 1) ∧
      (∀ x, decodeWord s.fetchWord = .known (.ldStVx x) → t.st.toNat = (s.reg x).toNat - 1) ∧
      ((∀ x, decodeWord s.fetchWord ≠ .known (.ldDtVx x)) → t.dt.toNat = s.dt.toNat - 1) ∧
      ((∀ x, decodeWord s.fetchWord ≠ .known (.ldStVx x)) → t.st.toNat = s.st.toNat - 1))

/-! ### The host's operations and the outputs -/

/-- R99, R100: TimerTick lowers each timer that is above 0 by 1, in both modes, and does nothing on a faulted block; SetKey sets
one key and changes nothing else, faulted or not. -/
def Obligations.TimerTickAndSetKey : Prop :=
  ∀ s : State,
    (s.fault = none → ∃ t, operate .timerTick s = .next t ∧
      (0 < s.dt.toNat → t.dt.toNat = s.dt.toNat - 1) ∧ (s.dt.toNat = 0 → t.dt.toNat = 0) ∧
      (0 < s.st.toNat → t.st.toNat = s.st.toNat - 1) ∧ (s.st.toNat = 0 → t.st.toNat = 0) ∧
      KeepsAllBut [.dt, .st] s t) ∧
    (s.fault ≠ none → operate .timerTick s = .next s) ∧
    ∀ (k : Fin 16) (b : Bool), ∃ t, operate (.setKey k b) s = .next t ∧ t.keyLevel k = b ∧
      (∀ j, j ≠ k → t.keyLevel j = s.keyLevel j) ∧ KeepsAllBut [.key] s t

/-- R201: a Load that fits copies the font and the ROM, sets PC, draws RND, and writes nothing else; a latched fault stays. -/
def Obligations.LoadCopiesFontAndRom : Prop :=
  ∀ (s : State) (rom : List Byte), memWf s.mem = true → configWf s.cfg = true → rom.length ≤ maxRomSize s.cfg →
    ∃ t, operate (.load rom) s = .next t ∧ reply (.load rom) s t = .load .ok ∧
      (∀ k, k < 80 → t.byteAt (s.cfg.fontBase + k) = fontTable.getD k 0) ∧
      (∀ k, k < rom.length → t.byteAt (s.cfg.programBase + k) = rom.getD k 0) ∧
      (∀ a, (a < s.cfg.fontBase ∨ s.cfg.fontBase + 80 ≤ a) →
        (a < s.cfg.programBase ∨ s.cfg.programBase + rom.length ≤ a) → t.byteAt a = s.byteAt a) ∧
      t.pc.toNat = s.cfg.programBase ∧ t.rnd = Config.randomByte s.draws ∧ t.draws = s.draws + 1 ∧
      KeepsAllBut [.mem, .pc, .rnd, .draws] s t

/-- R202: MAX_ROM_SIZE; a ROM that is too large changes no state at all; a ROM of exactly that size fills memory to its last
byte. -/
def Obligations.OversizedRomChangesNothing : Prop :=
  ∀ (s : State) (rom : List Byte), (configWf s.cfg = true → maxRomSize s.cfg + s.cfg.programBase = 4096) ∧
    (rom.length > maxRomSize s.cfg → operate (.load rom) s = .next s ∧ reply (.load rom) s s = .load .romTooLarge) ∧
    (rom.length = maxRomSize s.cfg → memWf s.mem = true → configWf s.cfg = true →
      ∃ t, operate (.load rom) s = .next t ∧ reply (.load rom) s t = .load .ok ∧
        t.byteAt 4095 = rom.getD (rom.length - 1) 0)

/-- R102, R104: the framebuffer port, which no operation of the host but Reset writes, and the sound output. -/
def Obligations.FramebufferPortAndSound : Prop :=
  ∀ s : State, (framebufferPort s).length = 2048 ∧
    (∀ x y, x < 64 → y < 32 → (framebufferPort s)[y * 64 + x]? = some (cellAt s.fb x y)) ∧
    (∀ o t, o ≠ .reset → o ≠ .cycle → operate o s = .next t → framebufferPort t = framebufferPort s) ∧
    (soundOutput s = true ↔ 0 < s.st.toNat)

/-! ### Rules about the whole machine -/

/-- R94, R96: every Cycle that does not fault puts the fetched word into OPCODE and the next byte of the random source into
RND; a Cycle that faults leaves both and draws none. -/
def Obligations.GoodCyclesLatchOpcodeAndRedrawRnd : Prop :=
  ∀ s t : State, s.fault = none → step s = .next t →
    (t.fault = none → t.opcode = s.fetchWord ∧ t.rnd = Config.randomByte s.draws ∧ t.draws = s.draws + 1) ∧
    (t.fault ≠ none → t.opcode = s.opcode ∧ t.rnd = s.rnd ∧ t.draws = s.draws)

/-- Nothing reads OPCODE: a different value in the latch changes nothing a step does, but for the latch itself (R33). -/
def Obligations.OpcodeLatchIsNeverRead : Prop :=
  ∀ (s t : State) (w : Word), step s = .next t →
    ∃ t', step (s.setOpcode w) = .next t' ∧ KeepsAllBut [.opcode] t t' ∧
      (s.fault = none → t.fault = none → t'.opcode = t.opcode)

/-- Only LD B and register dump write memory, and only the bytes of their range from I (R50). -/
def Obligations.OnlyStoresWriteMemory : Prop :=
  ∀ (s t : State) (a : Nat), memWf s.mem = true → step s = .next t → t.byteAt a ≠ s.byteAt a →
    (∃ x, decodeWord s.fetchWord = .known (.ldBVx x) ∧ s.index.toNat ≤ a ∧ a ≤ s.index.toNat + 2) ∨
    (∃ x, decodeWord s.fetchWord = .known (.ldMemVx x) ∧ s.index.toNat ≤ a ∧ a ≤ s.index.toNat + x.val)

/-- The framebuffer is mutated only by CLS and DRW, the stack and SP only by CALL and RET (only SP by RET), the keypad by no
instruction (R26, R27, R31, R32). -/
def Obligations.OnlyTheirInstructionsTouchScreenStackAndKeys : Prop :=
  ∀ s t : State, step s = .next t →
    ((∃ x y, cellAt t.fb x y ≠ cellAt s.fb x y) →
      decodeWord s.fetchWord = .known .cls ∨ ∃ x y n, decodeWord s.fetchWord = .known (.drw x y n)) ∧
    (t.sp ≠ s.sp → decodeWord s.fetchWord = .known .ret ∨ ∃ nnn, decodeWord s.fetchWord = .known (.call nnn)) ∧
    ((∃ k, t.stackEntry k ≠ s.stackEntry k) → ∃ nnn, decodeWord s.fetchWord = .known (.call nnn)) ∧
    ∀ k, t.keyLevel k = s.keyLevel k

/-- VF changes only by the six flag-setting instructions, an instruction that names VF as its destination, or a register load of
all sixteen registers (R22). -/
def Obligations.OnlyFlagWritersAndDestinationsChangeVF : Prop :=
  ∀ s t : State, step s = .next t → t.reg 0xF ≠ s.reg 0xF →
    ∃ i, decodeWord s.fetchWord = .known i ∧
      ((∃ x y, i = .addReg x y ∨ i = .sub x y ∨ i = .subn x y ∨ i = .shr x y ∨ i = .shl x y) ∨
       (∃ x y n, i = .drw x y n) ∨
       (∃ nn, i = .ldImm 0xF nn ∨ i = .addImm 0xF nn ∨ i = .rnd 0xF nn) ∨
       (∃ y, i = .ldReg 0xF y ∨ i = .orReg 0xF y ∨ i = .andReg 0xF y ∨ i = .xorReg 0xF y) ∨
       i = .ldVxDt 0xF ∨ i = .ldVxK 0xF ∨ i = .ldVxMem 0xF)

/-- I changes only by LD I, ADD I, LD F and, under QUIRK_INDEX_INCREMENT, by dump and load (R24). -/
def Obligations.OnlyIndexInstructionsChangeIndex : Prop :=
  ∀ s t : State, step s = .next t → t.index ≠ s.index →
    ∃ i, decodeWord s.fetchWord = .known i ∧
      ((∃ nnn, i = .ldI nnn) ∨ (∃ x, i = .addIVx x ∨ i = .ldFVx x) ∨
       (s.cfg.indexIncrement = true ∧ ∃ x, i = .ldMemVx x ∨ i = .ldVxMem x))

/-- A block at its halted end (the word at PC is JP PC) stays there: each Cycle moves only OPCODE, RND, the reported result and, in
PerCycle mode, the timers (R204, R112). OPCODE takes the JP word (R94), which R204's list leaves out: notes/assumptions/13.md. -/
def Obligations.HaltedEndIsKept : Prop :=
  ∀ s : State, haltedEnd s = true → ∃ t, step s = .next t ∧ haltedEnd t = true ∧
    KeepsAllBut [.opcode, .rnd, .draws, .dt, .st, .result] s t ∧
    (s.cfg.timerMode = .hostTick → t.dt = s.dt ∧ t.st = s.st)
end

