-- ==== Sys2Proof/Tests/Slice0.lean ====
section
/-! SUPPORT. The model's own tests: well-formedness, one word per constructor written out from 30_encoding.md R76, small one-step
tests from 95_test_vectors.md (the vector's number in each docstring), and a witness for the hypotheses of each statement. -/

namespace Sys2Proof.Tests

open Sys2Proof Sys2Proof.Machine

/-! ### Small states and what a step answers -/

/-- Reset, then these big-endian words at 0x200 with PC there. -/
def start (ws : List Nat) : State :=
  { State.reset with
    pc := 0x200
    mem := memWriteBytes [] 0x200 (ws.flatMap fun w => [BitVec.ofNat 8 (w / 256), BitVec.ofNat 8 w]) }

/-- Set registers. -/
def withRegs (s : State) (rs : List (RegIdx × Byte)) : State := rs.foldl (fun s p => s.setReg p.1 p.2) s

/-- Set bytes of memory. -/
def withBytes (s : State) (a : Nat) (bs : List Byte) : State := s.setMem (memWriteBytes s.mem a bs)

/-- Set the parameters. -/
def withConfig (s : State) (c : Config) : State := { s with cfg := c }

/-- The default parameters with one of them changed. -/
def noOpPolicy : Config := { defaultConfig with unknownOpcode := .noOp }
def flagFirst : Config := { defaultConfig with flagOrder := .flagFirst }
def shiftY : Config := { defaultConfig with shiftSource := .y }
def increment : Config := { defaultConfig with indexIncrement := true }
def wrapEdge : Config := { defaultConfig with drawEdge := .wrap }
def perCycle : Config := { defaultConfig with timerMode := .perCycle }

/-- The outcome is a next state with this property. -/
def answers (o : Host.Outcome State Fault Refusal) (p : State → Bool) : Bool :=
  match o with
  | .next t => p t
  | _ => false

theorem exists_of_answers {o : Host.Outcome State Fault Refusal} {p : State → Bool} (h : answers o p = true) :
    ∃ t, o = .next t ∧ p t = true := by
  cases o with
  | next t => exact ⟨t, rfl, h⟩
  | fault r => cases h
  | refused r => cases h

/-- The fault a state shows. -/
def showsFault (c : FaultCause) (pc word : Word) (addr : Nat) (t : State) : Bool :=
  decide (t.fault = some ⟨c, pc, word, addr⟩) && decide (t.result = some (.fault ⟨c, pc, word, addr⟩)) &&
    decide (t.pc = pc)

/-! ### Well-formedness: an ill-formed term for each check -/

/-- R77: the words 00E0 and 00EE are CLS and RET, so SYS with those operands has no word. -/
theorem test_wf_sys : (Instr.sys 0x0E0).wf = false ∧ (Instr.sys 0x0EE).wf = false ∧ (Instr.sys 0x0E1).wf = true := by decide

/-! ### Decoding: a word written out from R76 for every constructor -/

theorem test_decode_family0 :
    decodeWord 0x00E0 = .known .cls ∧ decodeWord 0x00EE = .known .ret ∧ decodeWord 0x01E0 = .known (.sys 0x1E0) ∧
    decodeWord 0x00F0 = .known (.sys 0x0F0) ∧ decodeWord 0x0000 = .known (.sys 0x000) := by decide

theorem test_decode_addresses :
    decodeWord 0x1208 = .known (.jp 0x208) ∧ decodeWord 0x2300 = .known (.call 0x300) ∧
    decodeWord 0xA30C = .known (.ldI 0x30C) ∧ decodeWord 0xB21A = .known (.jpV0 0x21A) := by decide

theorem test_decode_immediates :
    decodeWord 0x3510 = .known (.seImm 5 0x10) ∧ decodeWord 0x4510 = .known (.sneImm 5 0x10) ∧
    decodeWord 0x6A05 = .known (.ldImm 0xA 0x05) ∧ decodeWord 0x7305 = .known (.addImm 3 0x05) ∧
    decodeWord 0xC30F = .known (.rnd 3 0x0F) := by decide

theorem test_decode_register_skips :
    decodeWord 0x5121 = .known (.seReg 1 2 1) ∧ decodeWord 0x9ABF = .known (.sneReg 0xA 0xB 0xF) := by decide

theorem test_decode_family8 :
    decodeWord 0x8120 = .known (.ldReg 1 2) ∧ decodeWord 0x8121 = .known (.orReg 1 2) ∧
    decodeWord 0x8122 = .known (.andReg 1 2) ∧ decodeWord 0x8123 = .known (.xorReg 1 2) ∧
    decodeWord 0x8124 = .known (.addReg 1 2) ∧ decodeWord 0x8125 = .known (.sub 1 2) ∧
    decodeWord 0x8126 = .known (.shr 1 2) ∧ decodeWord 0x8127 = .known (.subn 1 2) ∧
    decodeWord 0x812E = .known (.shl 1 2) ∧ decodeWord 0x8008 = .unknown 0x8008 ∧
    decodeWord 0x800C = .unknown 0x800C ∧ decodeWord 0x800F = .unknown 0x800F := by decide

theorem test_decode_draw : decodeWord 0xD125 = .known (.drw 1 2 5) ∧ decodeWord 0xD120 = .known (.drw 1 2 0) := by decide

theorem test_decode_familyE :
    decodeWord 0xE19E = .known (.skp 1) ∧ decodeWord 0xE1A1 = .known (.sknp 1) ∧ decodeWord 0xE09F = .unknown 0xE09F ∧
    decodeWord 0xE0A0 = .unknown 0xE0A0 := by decide

theorem test_decode_familyF :
    decodeWord 0xF507 = .known (.ldVxDt 5) ∧ decodeWord 0xF30A = .known (.ldVxK 3) ∧
    decodeWord 0xF515 = .known (.ldDtVx 5) ∧ decodeWord 0xF518 = .known (.ldStVx 5) ∧
    decodeWord 0xF21E = .known (.addIVx 2) ∧ decodeWord 0xF029 = .known (.ldFVx 0) ∧
    decodeWord 0xF033 = .known (.ldBVx 0) ∧ decodeWord 0xF155 = .known (.ldMemVx 1) ∧
    decodeWord 0xF265 = .known (.ldVxMem 2) := by decide

theorem test_decode_familyF_unknown :
    decodeWord 0xF000 = .unknown 0xF000 ∧ decodeWord 0xF01F = .unknown 0xF01F ∧ decodeWord 0xFF66 = .unknown 0xFF66 ∧
    decodeWord 0xFFFF = .unknown 0xFFFF := by decide

/-- R53: the byte at the lower address is the high byte. -/
theorem test_decode_bytes :
    decodeBytes [0x6A, 0x05, 0x12] = .ok (.ldImm 0xA 0x05, [0x12]) ∧ decodeBytes [0x6A] = .error .truncated ∧
    decodeBytes [0x80, 0x08] = .error (.unknownWord 0x8008) := by decide

/-! ### Control transfer -/

/-- F1, F2. -/
theorem test_jp :
    answers (step (start [0x1208])) (fun t => decide (t.pc = 0x208)) = true ∧
    answers (step { State.reset with pc := 0x0FFF }) (showsFault .fetchOutOfRange 0x0FFF 0 4096) = true := by decide

/-- F3, F4. -/
theorem test_call :
    answers (step (start [0x2300]))
      (fun t => decide (t.stackEntry 0 = some 0x202) && decide (t.sp = 1) && decide (t.pc = 0x300)) = true ∧
    answers (step ((start [0x2300]).setSp 15))
      (fun t => decide (t.stackEntry 15 = some 0x202) && decide (t.sp = 16) && decide (t.pc = 0x300)) = true := by decide

/-- F5. -/
theorem test_call_overflow :
    answers (step ((start [0x2300]).setSp 16))
      (fun t => showsFault .stackOverflow 0x200 0x2300 0 t && decide (t.sp = 16)) = true := by decide

/-- F6. -/
theorem test_ret :
    answers (step (((start [0x00EE]).setSp 1).setStackEntry 0 0x202))
      (fun t => decide (t.sp = 0) && decide (t.pc = 0x202) && decide (t.stackEntry 0 = some 0x202)) = true := by decide

/-- F7, L1.7. -/
theorem test_ret_underflow :
    answers (step (start [0x00EE])) (showsFault .stackUnderflow 0x200 0x00EE 0) = true := by decide

/-- F8, F9. -/
theorem test_se_imm :
    answers (step (withRegs (start [0x3510]) [(5, 0x10)])) (fun t => decide (t.pc = 0x204)) = true ∧
    answers (step (withRegs (start [0x3510]) [(5, 0x11)])) (fun t => decide (t.pc = 0x202)) = true := by decide

/-- F17: a skip to 0x1000 completes; the next fetch is out of range. -/
theorem test_se_at_the_end :
    answers (step { withBytes State.reset 0xFFC [0x30, 0x00] with pc := 0xFFC })
      (fun t => decide (t.pc = 0x1000) && decide (t.fault = none) &&
        answers (step t) (showsFault .fetchOutOfRange 0x1000 0 4096)) = true := by decide

/-- F10. -/
theorem test_sne_imm :
    answers (step (withRegs (start [0x4510]) [(5, 0x11)])) (fun t => decide (t.pc = 0x204)) = true ∧
    answers (step (withRegs (start [0x4510]) [(5, 0x10)])) (fun t => decide (t.pc = 0x202)) = true := by decide

/-- F11, F12. -/
theorem test_se_reg :
    answers (step (withRegs (start [0x5121]) [(1, 7), (2, 7)])) (fun t => decide (t.pc = 0x204)) = true ∧
    answers (step (withRegs (start [0x5110]) [(1, 7)])) (fun t => decide (t.pc = 0x204)) = true := by decide

/-- F13, F14. -/
theorem test_sne_reg :
    answers (step (withRegs (start [0x9120]) [(1, 7), (2, 8)])) (fun t => decide (t.pc = 0x204)) = true ∧
    answers (step (withRegs (start [0x9110]) [(1, 7)])) (fun t => decide (t.pc = 0x202)) = true := by decide

/-- F15, F16. -/
theorem test_jp_v0 :
    answers (step (withRegs (start [0xB21A]) [(0, 2)])) (fun t => decide (t.pc = 0x21C)) = true ∧
    answers (step (withRegs (start [0xBFFF]) [(0, 0xFF)]))
      (fun t => decide (t.pc = 0x10FE) && answers (step t) (showsFault .fetchOutOfRange 0x10FE 0 0x10FE)) = true := by
  decide

/-- F18, F19. -/
theorem test_sys :
    answers (step (start [0x0123])) (showsFault .invalidOpcode 0x200 0x0123 0) = true ∧
    answers (step (withConfig (start [0x0123]) noOpPolicy))
      (fun t => decide (t.pc = 0x202) && decide (t.result = some (.unknown 0x0123)) && decide (t.fault = none)) = true := by
  decide

/-! ### Arithmetic and logic -/

/-- A1, L1.6. -/
theorem test_ld_imm :
    answers (step (start [0x6A05])) (fun t => decide (t.reg 0xA = 5) && decide (t.pc = 0x202) && decide (t.opcode = 0x6A05) &&
      decide (t.reg 0xF = 0)) = true := by decide

/-- A2, A3. -/
theorem test_add_imm :
    answers (step (withRegs (start [0x7305]) [(3, 0xFE), (0xF, 0xAA)]))
      (fun t => decide (t.reg 3 = 0x03) && decide (t.reg 0xF = 0xAA)) = true ∧
    answers (step (withRegs (start [0x7FF0]) [(0xF, 0x10)])) (fun t => decide (t.reg 0xF = 0x00)) = true := by decide

/-- A4. -/
theorem test_ld_reg :
    answers (step (withRegs (start [0x8120]) [(2, 0x44)])) (fun t => decide (t.reg 1 = 0x44)) = true := by decide

/-- A5. -/
theorem test_or :
    answers (step (withRegs (start [0x8121]) [(1, 0x0F), (2, 0xF0), (0xF, 9)]))
      (fun t => decide (t.reg 1 = 0xFF) && decide (t.reg 0xF = 9)) = true := by decide

/-- A6. -/
theorem test_and :
    answers (step (withRegs (start [0x8122]) [(1, 0x3C), (2, 0x0F)])) (fun t => decide (t.reg 1 = 0x0C)) = true := by decide

/-- A7, A8. -/
theorem test_xor :
    answers (step (withRegs (start [0x8123]) [(1, 0xFF), (2, 0x0F)])) (fun t => decide (t.reg 1 = 0xF0)) = true ∧
    answers (step (withRegs (start [0x8113]) [(1, 0x5A)])) (fun t => decide (t.reg 1 = 0x00)) = true := by decide

/-- A9, A10, A12. -/
theorem test_add_reg :
    answers (step (withRegs (start [0x8014]) [(0, 0xFF), (1, 0x01)]))
      (fun t => decide (t.reg 0 = 0x00) && decide (t.reg 0xF = 1)) = true ∧
    answers (step (withRegs (start [0x8014]) [(0, 0x80), (1, 0x7F)]))
      (fun t => decide (t.reg 0 = 0xFF) && decide (t.reg 0xF = 0)) = true ∧
    answers (step (withRegs (start [0x8004]) [(0, 0x81)]))
      (fun t => decide (t.reg 0 = 0x02) && decide (t.reg 0xF = 1)) = true := by decide

/-- A33, A34: VF as operand and destination under both flag orders. -/
theorem test_add_reg_vf :
    answers (step (withRegs (start [0x80F4]) [(0, 0xFF), (0xF, 2)])) (fun t => decide (t.reg 0 = 1)) = true ∧
    answers (step (withConfig (withRegs (start [0x80F4]) [(0, 0xFF), (0xF, 2)]) flagFirst))
      (fun t => decide (t.reg 0 = 0) && decide (t.reg 0xF = 1)) = true ∧
    answers (step (withRegs (start [0x8FF4]) [(0xF, 0xFF)])) (fun t => decide (t.reg 0xF = 1)) = true ∧
    answers (step (withConfig (withRegs (start [0x8FF4]) [(0xF, 0xFF)]) flagFirst))
      (fun t => decide (t.reg 0xF = 2)) = true := by decide

/-- A13, A14, A15. -/
theorem test_sub :
    answers (step (withRegs (start [0x8015]) [(0, 5), (1, 3)]))
      (fun t => decide (t.reg 0 = 2) && decide (t.reg 0xF = 1)) = true ∧
    answers (step (withRegs (start [0x8015]) [(0, 3), (1, 5)]))
      (fun t => decide (t.reg 0 = 0xFE) && decide (t.reg 0xF = 0)) = true ∧
    answers (step (withRegs (start [0x8015]) [(0, 5), (1, 5)]))
      (fun t => decide (t.reg 0 = 0) && decide (t.reg 0xF = 0)) = true := by decide

/-- A36, A37 under FlagFirst. -/
theorem test_sub_vf :
    answers (step (withConfig (withRegs (start [0x8F15]) [(0xF, 5), (1, 3)]) flagFirst))
      (fun t => decide (t.reg 0xF = 0xFE)) = true ∧
    answers (step (withConfig (withRegs (start [0x81F5]) [(0xF, 3), (1, 5)]) flagFirst))
      (fun t => decide (t.reg 1 = 4) && decide (t.reg 0xF = 1)) = true := by decide

/-- A17, A18, A19. -/
theorem test_subn :
    answers (step (withRegs (start [0x8127]) [(1, 3), (2, 5)]))
      (fun t => decide (t.reg 1 = 2) && decide (t.reg 0xF = 1)) = true ∧
    answers (step (withRegs (start [0x8127]) [(1, 5), (2, 3)]))
      (fun t => decide (t.reg 1 = 0xFE) && decide (t.reg 0xF = 0)) = true ∧
    answers (step (withRegs (start [0x8127]) [(1, 5), (2, 5)]))
      (fun t => decide (t.reg 1 = 0) && decide (t.reg 0xF = 0)) = true := by decide

/-- A38. -/
theorem test_subn_vf :
    answers (step (withConfig (withRegs (start [0x81F7]) [(1, 3), (0xF, 5)]) flagFirst))
      (fun t => decide (t.reg 1 = 0xFE) && decide (t.reg 0xF = 1)) = true := by decide

/-- A21, A23, A24. -/
theorem test_shr :
    answers (step (withRegs (start [0x8106]) [(1, 0xFF)]))
      (fun t => decide (t.reg 1 = 0x7F) && decide (t.reg 0xF = 1)) = true ∧
    answers (step (withRegs (start [0x8126]) [(2, 3)]))
      (fun t => decide (t.reg 1 = 0) && decide (t.reg 0xF = 0)) = true ∧
    answers (step (withConfig (withRegs (start [0x8126]) [(2, 3)]) shiftY))
      (fun t => decide (t.reg 1 = 1) && decide (t.reg 0xF = 1) && decide (t.reg 2 = 3)) = true := by decide

/-- A39. -/
theorem test_shr_vf :
    answers (step (withRegs (start [0x8FF6]) [(0xF, 3)])) (fun t => decide (t.reg 0xF = 1)) = true ∧
    answers (step (withConfig (withRegs (start [0x8FF6]) [(0xF, 3)]) flagFirst)) (fun t => decide (t.reg 0xF = 0)) = true := by
  decide

/-- A26, A27, A28. -/
theorem test_shl :
    answers (step (withRegs (start [0x810E]) [(1, 0x7F)]))
      (fun t => decide (t.reg 1 = 0xFE) && decide (t.reg 0xF = 0)) = true ∧
    answers (step (withRegs (start [0x810E]) [(1, 0xFF)]))
      (fun t => decide (t.reg 1 = 0xFE) && decide (t.reg 0xF = 1)) = true ∧
    answers (step (withConfig (withRegs (start [0x812E]) [(2, 0x81)]) shiftY))
      (fun t => decide (t.reg 1 = 2) && decide (t.reg 0xF = 1)) = true := by decide

/-- A40. -/
theorem test_shl_vf :
    answers (step (withRegs (start [0x8FFE]) [(0xF, 0x81)])) (fun t => decide (t.reg 0xF = 1)) = true ∧
    answers (step (withConfig (withRegs (start [0x8FFE]) [(0xF, 0x81)]) flagFirst))
      (fun t => decide (t.reg 0xF = 2)) = true := by decide

/-- A29, A30, A31. -/
theorem test_rnd :
    answers (step { start [0xC30F] with rnd := 0xA7 }) (fun t => decide (t.reg 3 = 0x07)) = true ∧
    answers (step { start [0xC300] with rnd := 0xA7 }) (fun t => decide (t.reg 3 = 0x00)) = true ∧
    answers (step { start [0xC3FF] with rnd := 0xA7 }) (fun t => decide (t.reg 3 = 0xA7)) = true := by decide

/-! ### Display -/

/-- D1. -/
theorem test_cls :
    answers (step (withRegs ((start [0x00E0]).setFb (toggleCell blankScreen 5 1)) [(0xF, 3)]))
      (fun t => !cellAt t.fb 5 1 && decide (t.reg 0xF = 3)) = true := by decide

/-- D3, D6. -/
theorem test_drw :
    answers (step ((withBytes ((start [0xD012]).setFb (toggleCell blankScreen 0 0)) 0x300 [0x80, 0x80]).setIndex 0x300))
      (fun t => !cellAt t.fb 0 0 && cellAt t.fb 0 1 && decide (t.reg 0xF = 1)) = true ∧
    answers (step (withRegs ((withBytes (start [0xD011]) 0x300 [0x80]).setIndex 0x300) [(0, 0x45), (1, 0x21)]))
      (fun t => cellAt t.fb 5 1 && !cellAt t.fb 4 1 && !cellAt t.fb 6 1) = true := by decide

/-- D4, D5, D7, D8. -/
theorem test_drw_edges :
    answers (step (withRegs ((withBytes (start [0xD011]) 0x300 [0xFF]).setIndex 0x300) [(0, 60)]))
      (fun t => cellAt t.fb 60 0 && cellAt t.fb 63 0 && !cellAt t.fb 0 0 && decide (t.reg 0xF = 0)) = true ∧
    answers (step (withConfig (withRegs ((withBytes (start [0xD011]) 0x300 [0xFF]).setIndex 0x300) [(0, 60)]) wrapEdge))
      (fun t => cellAt t.fb 60 0 && cellAt t.fb 63 0 && cellAt t.fb 0 0 && cellAt t.fb 3 0 && !cellAt t.fb 4 0) = true ∧
    answers (step (withRegs ((start [0xD010]).setIndex 0xFFFF) [(0xF, 1)]))
      (fun t => decide (t.fault = none) && decide (t.reg 0xF = 0)) = true ∧
    answers (step (withRegs ((start [0xD013]).setIndex 0xFFE) [(0xF, 7)]))
      (fun t => showsFault .dataOutOfRange 0x200 0xD013 4096 t && decide (t.reg 0xF = 7)) = true := by decide

/-! ### Index register and memory -/

/-- M1. -/
theorem test_ld_i : answers (step (start [0xA300])) (fun t => decide (t.index = 0x300)) = true := by decide

/-- M3, M4. -/
theorem test_add_i :
    answers (step (withRegs ((start [0xF21E]).setIndex 0x0FFF) [(2, 1)]))
      (fun t => decide (t.index = 0x1000) && decide (t.fault = none)) = true ∧
    answers (step (withRegs ((start [0xF21E]).setIndex 0xFFFF) [(2, 2)])) (fun t => decide (t.index = 0x0001)) = true := by
  decide

/-- M5, M7. -/
theorem test_ld_f :
    answers (step (withRegs (start [0xF029]) [(0, 0x0A)])) (fun t => decide (t.index = 0x0032)) = true ∧
    answers (step (withRegs (start [0xF029]) [(0, 0xFF)])) (fun t => decide (t.index = 0x04FB)) = true := by decide

/-- M8, M9. -/
theorem test_ld_b :
    answers (step (withRegs ((start [0xF033]).setIndex 0x300) [(0, 255)]))
      (fun t => decide (memReadBytes t.mem 0x300 3 = [2, 5, 5])) = true ∧
    answers (step (withRegs ((start [0xF033]).setIndex 0x300) [(0, 128)]))
      (fun t => decide (memReadBytes t.mem 0x300 3 = [1, 2, 8])) = true := by decide

/-- M13, M14. -/
theorem test_ld_b_bounds :
    answers (step (withRegs ((start [0xF033]).setIndex 0xFFD) [(0, 123)]))
      (fun t => decide (memReadBytes t.mem 0xFFD 3 = [1, 2, 3]) && decide (t.fault = none)) = true ∧
    answers (step ((start [0xF033]).setIndex 0xFFE))
      (fun t => showsFault .dataOutOfRange 0x200 0xF033 4096 t && decide (t.mem = (start [0xF033]).mem)) = true := by decide

/-- M15, M16. -/
theorem test_dump :
    answers (step (withRegs ((start [0xF155]).setIndex 0x300) [(0, 1), (1, 2), (2, 9)]))
      (fun t => decide (memReadBytes t.mem 0x300 3 = [1, 2, 0]) && decide (t.index = 0x300)) = true ∧
    answers (step (withConfig (withRegs ((start [0xF155]).setIndex 0x300) [(0, 1), (1, 2)]) increment))
      (fun t => decide (memReadBytes t.mem 0x300 2 = [1, 2]) && decide (t.index = 0x302)) = true := by decide

/-- M17, M18. -/
theorem test_dump_bounds :
    answers (step (withRegs ((start [0xFF55]).setIndex 0xFF0) [(0, 1), (0xF, 2)]))
      (fun t => decide (t.byteAt 0xFF0 = 1) && decide (t.byteAt 0xFFF = 2) && decide (t.fault = none)) = true ∧
    answers (step ((start [0xFF55]).setIndex 0xFF1)) (showsFault .dataOutOfRange 0x200 0xFF55 4096) = true := by decide

/-- M19, M20. -/
theorem test_load :
    answers (step (withRegs ((withBytes (start [0xF265]) 0x300 [1, 2, 3, 4]).setIndex 0x300) [(3, 9)]))
      (fun t => decide ([t.reg 0, t.reg 1, t.reg 2, t.reg 3] = [1, 2, 3, 9]) && decide (t.index = 0x300)) = true ∧
    answers (step (withConfig ((withBytes (start [0xF265]) 0x300 [1, 2, 3]).setIndex 0x300) increment))
      (fun t => decide (t.reg 2 = 3) && decide (t.index = 0x303)) = true := by decide

/-- M21, M22. -/
theorem test_load_bounds :
    answers (step ((withBytes (start [0xFF65]) 0x30F [0x77]).setIndex 0x300)) (fun t => decide (t.reg 0xF = 0x77)) = true ∧
    answers (step ((start [0xF065]).setIndex 0x1000)) (showsFault .dataOutOfRange 0x200 0xF065 4096) = true := by decide

/-! ### Timers and keys -/

/-- T1; and R170: in PerCycle mode the value is the one before this cycle's decrement. -/
theorem test_ld_vx_dt :
    answers (step ((start [0xF507]).setDt 0x3C)) (fun t => decide (t.reg 5 = 0x3C) && decide (t.dt = 0x3C)) = true ∧
    answers (step (withConfig ((start [0xF507]).setDt 0x3C) perCycle))
      (fun t => decide (t.reg 5 = 0x3C) && decide (t.dt = 0x3B)) = true := by decide

/-- T2; and R97: in PerCycle mode the value written counts down once in the same cycle. -/
theorem test_ld_dt :
    answers (step (withRegs (start [0xF515]) [(5, 0x3C)])) (fun t => decide (t.dt = 0x3C)) = true ∧
    answers (step (withConfig (withRegs (start [0xF515]) [(5, 5)]) perCycle)) (fun t => decide (t.dt = 4)) = true := by decide

/-- T3. -/
theorem test_ld_st :
    answers (step (withRegs (start [0xF518]) [(5, 2)])) (fun t => decide (t.st = 2) && soundOutput t) = true := by decide

/-- T9, T10, T12. -/
theorem test_skp :
    answers (step (setKey (withRegs (start [0xE19E]) [(1, 4)]) 4 true)) (fun t => decide (t.pc = 0x204)) = true ∧
    answers (step (withRegs (start [0xE19E]) [(1, 4)])) (fun t => decide (t.pc = 0x202)) = true ∧
    answers (step (setKey (withRegs (start [0xE19E]) [(1, 0x1A)]) 0xA true)) (fun t => decide (t.pc = 0x204)) = true := by
  decide

/-- T11. -/
theorem test_sknp :
    answers (step (withRegs (start [0xE1A1]) [(1, 4)])) (fun t => decide (t.pc = 0x204)) = true ∧
    answers (step (setKey (withRegs (start [0xE1A1]) [(1, 4)]) 4 true)) (fun t => decide (t.pc = 0x202)) = true := by decide

/-- T13, T14. -/
theorem test_wait_key :
    answers (step (withRegs (start [0xF30A]) [(3, 9)]))
      (fun t => decide (t.pc = 0x200) && decide (t.reg 3 = 9) && decide (t.result = some .executed)) = true ∧
    answers (step (setKey (setKey (start [0xF30A]) 9 true) 7 true))
      (fun t => decide (t.reg 3 = 7) && decide (t.pc = 0x202)) = true := by decide

/-! ### The cycle, faults, the host's operations -/

/-- C1, C2. -/
theorem test_unknown_word :
    answers (step (withConfig (start [0x8008]) noOpPolicy))
      (fun t => decide (t.result = some (.unknown 0x8008)) && decide (t.pc = 0x202) && decide (t.opcode = 0x8008)) = true ∧
    answers (step { start [0x8008] with opcode := 7 })
      (fun t => showsFault .invalidOpcode 0x200 0x8008 0 t && decide (t.opcode = 7) && decide (t.draws = 0)) = true := by
  decide

/-- C3, C4, C9, T8. -/
theorem test_faulted_block :
    answers (step State.reset) (fun t => showsFault .invalidOpcode 0 0 0 t &&
      answers (step t) (fun u => decide (u = t)) && decide (timerTick { t with dt := 5 } = { t with dt := 5 }) &&
      decide (t.resetBlock = State.reset)) = true := by decide

/-- C12: Load on a faulted block writes memory and PC and keeps FAULT. -/
theorem test_load_faulted :
    answers (step State.reset) (fun t => answers (operate (.load [0x12, 0x00]) t)
      (fun u => decide (u.byteAt 0x200 = 0x12) && decide (u.pc = 0x200) && decide (u.fault = t.fault) &&
        decide (u.byteAt 0x32 = 0xF0))) = true := by decide

/-- L1.10, C10, C11: MAX_ROM_SIZE is 3584. -/
theorem test_max_rom : maxRomSize defaultConfig = 3584 ∧ (loadRom State.reset (List.replicate 3585 1)).2 = .romTooLarge ∧
    (loadRom State.reset (List.replicate 3584 1)).2 = .ok := by
  refine ⟨rfl, ?_, ?_⟩
  · unfold loadRom; rw [List.length_replicate]; rfl
  · unfold loadRom; rw [List.length_replicate]; rfl

/-- T6, T7. -/
theorem test_timer_tick :
    (timerTick (State.reset.setDt 1)).dt = 0 ∧ (timerTick (State.reset.setDt 1)).st = 0 ∧
    (timerTick (State.reset.setSt 3)).dt = 0 ∧ (timerTick (State.reset.setSt 3)).st = 2 := by decide

/-- The host's way in: after reset the placed word is the one the very next step runs, and the decoder gives it. -/
theorem test_with_fetch_word :
    decodeTableWord 16 0x6A05 = some (.ldImm 0xA 5) ∧ decodeTableWord 16 0x8008 = none ∧
    answers (step (State.reset.withFetchWord 16 0x6A05)) (fun t => decide (t.reg 0xA = 5) && decide (t.pc = 2)) = true ∧
    answers (Sys2Proof.core.step (State.withFetchWord { State.reset with pc := 0xFFFF } 16 0x1208))
      (fun t => decide (t.pc = 0x208)) = true := by decide

/-! ### Witnesses: states and operands that meet the hypotheses of each statement, clause by clause, at boundary values.
A statement that is not named here has no hypothesis. -/

/-- Memory holding the ROM region's last word: fetched with PC at 0xFFE. -/
def atTheEnd (hi lo : Byte) : State := { withBytes State.reset 0xFFE [hi, lo] with pc := 0xFFE }

/-- A block that took the fault of its first cycle. -/
def faulted : State := State.reset.latchFault ⟨.invalidOpcode, 0, 0, 0⟩

theorem witness_ResetClearsEveryPieceOfState :
    ∃ t, operate .reset faulted = .next t ∧ faulted.fault ≠ none := ⟨_, rfl, by decide⟩

theorem witness_StepRunsDecodedInstruction :
    (atTheEnd 0x6A 0x05).fault = none ∧ (atTheEnd 0x6A 0x05).pc.toNat + 1 = 4095 ∧
    decodeWord (atTheEnd 0x6A 0x05).fetchWord = .known (.ldImm 0xA 0x05) ∧
    exec .ret ((start [0x00EE]).setSp 17) = .fault .noStackEntry := ⟨rfl, rfl, rfl, rfl⟩

theorem witness_CycleFollowsItsSequence_fetch :
    (State.reset.setPc 0xFFF).fault = none ∧ 4096 ≤ (State.reset.setPc 0xFFF).pc.toNat + 1 ∧
    (State.reset.setPc 0xFFE).pc.toNat + 1 < 4096 := by decide

theorem witness_CycleFollowsItsSequence_run :
    (decodeWord (start [0x8008]).fetchWord = .unknown 0x8008 ∧
      answers (unknownWord 0x8008 (start [0x8008])) (fun u => decide (u.fault ≠ none)) = true ∧
      answers (unknownWord 0x8008 (withConfig (start [0x8008]) noOpPolicy)) (fun u => decide (u.fault = none)) = true) ∧
    (decodeWord (start [0x00EE]).fetchWord = .known .ret ∧
      answers (exec .ret (start [0x00EE])) (fun u => decide (u.fault ≠ none)) = true) ∧
    (decodeWord (start [0x1208]).fetchWord = .known (.jp 0x208) ∧
      answers (exec (.jp 0x208) (start [0x1208]))
        (fun u => decide (u.fault = none) && decide (u.cfg.timerMode = .hostTick)) = true ∧
      answers (exec (.jp 0x208) (withConfig (start [0x1208]) perCycle))
        (fun u => decide (u.fault = none) && decide (u.cfg.timerMode = .perCycle)) = true) := by decide

theorem witness_FaultedBlockIgnoresCycle : faulted.fault = some ⟨.invalidOpcode, 0, 0, 0⟩ ∧ faulted.Inv := by decide

/-- Every cause a Cycle raises, for FaultsArePrecise and OnlyTheListedEventsFault. -/
theorem witness_FaultsArePrecise :
    answers (step (State.reset.setPc 0xFFF)) (showsFault .fetchOutOfRange 0xFFF 0 4096) = true ∧
    answers (step (start [0x8008])) (showsFault .invalidOpcode 0x200 0x8008 0) = true ∧
    answers (step (start [0x0123])) (showsFault .invalidOpcode 0x200 0x0123 0) = true ∧
    answers (step ((start [0x2300]).setSp 16)) (showsFault .stackOverflow 0x200 0x2300 0) = true ∧
    answers (step (start [0x00EE])) (showsFault .stackUnderflow 0x200 0x00EE 0) = true := by decide

theorem witness_OnlyTheListedEventsFault :
    answers (step ((start [0xD011]).setIndex 0x1000)) (showsFault .dataOutOfRange 0x200 0xD011 0x1000) = true ∧
    answers (step ((start [0xF033]).setIndex 0xFFE)) (showsFault .dataOutOfRange 0x200 0xF033 0x1000) = true ∧
    answers (step ((start [0xF155]).setIndex 0xFFF)) (showsFault .dataOutOfRange 0x200 0xF155 0x1000) = true ∧
    answers (step ((start [0xF065]).setIndex 0x2345)) (showsFault .dataOutOfRange 0x200 0xF065 0x2345) = true ∧
    ((start [0xD011]).setIndex 0x1000).sp.toNat ≤ 16 := by decide

theorem witness_StepAlwaysAnswersANextState : ((start [0x00EE]).setSp 16).sp.toNat ≤ 16 := by decide

theorem witness_StepKeepsInvariant :
    State.reset.Inv ∧ answers (step State.reset) (fun _ => true) = true ∧
    (withRegs ((start [0xF033]).setIndex 0xFFD) [(0, 123)]).Inv ∧
    answers (step (withRegs ((start [0xF033]).setIndex 0xFFD) [(0, 123)])) (fun t => decide (t.fault = none)) = true := by
  decide

theorem witness_EveryHostSequenceKeepsInvariant :
    (withConfig State.reset ⟨0x100, 0x150, .noOp, true, .y, .flagFirst, .wrap, .perCycle⟩).Inv := by decide

theorem witness_ParametersNeverChange :
    answers (operate .reset State.reset) (fun _ => true) = true ∧
    answers (operate (.load [0x12, 0x00]) State.reset) (fun _ => true) = true ∧
    answers (operate .cycle State.reset) (fun _ => true) = true ∧
    answers (operate .timerTick State.reset) (fun _ => true) = true ∧
    answers (operate (.setKey 0xF true) State.reset) (fun _ => true) = true := by decide

theorem witness_DecodeOfEncodeIsTheInstruction : (Instr.sys 0xFFF).wf = true ∧ (Instr.drw 0xF 0xF 0xF).wf = true := by decide

theorem witness_EncodeOfDecodeIsTheWord :
    decodeWord 0x00E1 = .known (.sys 0x0E1) ∧ decodeWord 0xFF65 = .known (.ldVxMem 0xF) := by decide

theorem witness_FamiliesDispatchAsTheMapSays : (0x0E1 : Addr12) ≠ 0x0E0 ∧ (0x0E1 : Addr12) ≠ 0x0EE := by decide

/-- One word on each line of R82's list, and one that is on none. -/
theorem witness_UnrecognizedWordsAreTheListedOnes :
    decodeWord 0x0FFF = .known (.sys 0xFFF) ∧ decodeWord 0x8FFD = .unknown 0x8FFD ∧ decodeWord 0xEF9D = .unknown 0xEF9D ∧
    decodeWord 0xFF66 = .unknown 0xFF66 ∧ decodeWord 0x00EE = .known .ret := by decide

theorem witness_SysFollowsThePolicy :
    ((0xFFF : Addr12) ≠ 0x0E0 ∧ (0xFFF : Addr12) ≠ 0x0EE) ∧
    (withConfig State.reset noOpPolicy).cfg.unknownOpcode = .noOp ∧ State.reset.cfg.unknownOpcode = .fault := by decide

theorem witness_UnknownWordFollowsThePolicy :
    (start [0x8008]).fault = none ∧ (start [0x8008]).pc.toNat + 1 < 4096 ∧
    decodeWord (start [0x8008]).fetchWord = .unknown 0x8008 ∧ decodeWord (start [0x0123]).fetchWord = .known (.sys 0x123) ∧
    (start [0x8008]).cfg.unknownOpcode = .fault ∧ (withConfig (start [0x8008]) noOpPolicy).cfg.unknownOpcode = .noOp := by
  decide

/-- A target of 4095 faults at the next fetch, a target of 4094 does not. -/
theorem witness_JumpsSetPc :
    answers (exec (.jp 0xFFF) State.reset) (fun t => decide (t.fault = none)) = true ∧
    4094 < (0xFFE : Addr12).toNat + ((withRegs State.reset [(0, 1)]).reg 0).toNat ∧
    ¬ 4094 < (0xFFE : Addr12).toNat + (State.reset.reg 0).toNat := by decide

theorem witness_CallPushesAndJumps : (State.reset.setSp 15).sp.toNat < 16 ∧ 16 ≤ (State.reset.setSp 16).sp.toNat := by decide

theorem witness_ReturnPopsPc :
    (0 < (State.reset.setSp 1).sp.toNat ∧ (State.reset.setSp 1).sp.toNat ≤ 16) ∧
    (0 < (State.reset.setSp 16).sp.toNat ∧ (State.reset.setSp 16).sp.toNat ≤ 16) ∧ State.reset.sp.toNat = 0 := by decide

theorem witness_ReturnWithoutEntryStops : 16 < (State.reset.setSp 17).sp.toNat := by decide

/-- The called block itself is a `u`. -/
theorem witness_ReturnResumesAfterCall :
    ((start [0x2300]).setSp 15).sp.toNat < 16 ∧
    answers (exec (.call 0x300) ((start [0x2300]).setSp 15)) (fun t => decide (t.sp = 16)) = true := by decide

/-- A block whose previous cycle drew the byte, and one whose Load did: the program is RND V3, 0x0F twice. -/
theorem witness_RandomAndImmediate :
    answers (step (start [0xC30F, 0xC30F])) (fun t => decide (t.fault = none) && decide (t.pc.toNat + 1 < 4096) &&
      decide (decodeWord t.fetchWord = .known (.rnd 3 0x0F))) = true ∧
    ([0xC3, 0x0F] : List Byte).length ≤ maxRomSize State.reset.cfg ∧
    answers (operate (.load [0xC3, 0x0F]) State.reset) (fun t => decide (t.fault = none) &&
      decide (t.pc.toNat + 1 < 4096) && decide (decodeWord t.fetchWord = .known (.rnd 3 0x0F))) = true := by decide

/-- Each flag order, each shift source, a destination that is VF and one that is not. -/
theorem witness_flag_statements :
    State.reset.cfg.flagOrder = .flagLast ∧ (withConfig State.reset flagFirst).cfg.flagOrder = .flagFirst ∧
    State.reset.cfg.shiftSource = .x ∧ (withConfig State.reset shiftY).cfg.shiftSource = .y ∧ (0 : RegIdx) ≠ 0xF := by decide

theorem witness_FlagOrdersAgreeAwayFromVF :
    (1 : RegIdx) ≠ 0xF ∧ (2 : RegIdx) ≠ 0xF ∧
    Instr.shl 1 2 ∈ [Instr.addReg 1 2, .sub 1 2, .subn 1 2, .shr 1 2, .shl 1 2] ∧
    (∀ r, (withConfig State.reset flagFirst).reg r = State.reset.reg r) ∧
    (withConfig State.reset flagFirst).cfg.shiftSource = State.reset.cfg.shiftSource ∧
    answers (exec (.shl 1 2) State.reset) (fun _ => true) = true ∧
    answers (exec (.shl 1 2) (withConfig State.reset flagFirst)) (fun _ => true) = true := by decide

/-- A block about to draw one row with one set bit at (63, 31) with that cell lit. -/
def corner : State :=
  withRegs ((withBytes ((start [0xD011]).setFb (toggleCell blankScreen 63 31)) 0xFFF [0x80]).setIndex 0xFFF) [(0, 63), (1, 31)]

/-- The last address in range, the first out of range, and n = 0. -/
theorem witness_DrawTogglesTheSpriteCells_range :
    corner.index.toNat + (1 : Nibble).val ≤ 4096 ∧ (2 : Nibble) ≠ 0 ∧ 4096 < corner.index.toNat + (2 : Nibble).val ∧
    (0 : Nibble) = 0 := by decide

theorem witness_DrawTogglesTheSpriteCells_covered :
    SpriteCovers corner 0 1 1 63 31 ∧ cellAt corner.fb 63 31 = true ∧
    SpriteBitAt (withConfig corner wrapEdge) 0 1 0 0 63 31 := by
  refine ⟨⟨0, 0, by decide, by decide, by decide, by decide, by decide, ?_, ?_⟩, by decide, by decide, by decide, by decide, ?_, ?_⟩ <;>
    decide

/-- A sprite of zero bytes covers nothing: neither a covered cell nor a collision. -/
theorem witness_DrawTogglesTheSpriteCells_uncovered :
    ¬ SpriteCovers State.reset 0 1 0xF 5 5 ∧ ∀ cx cy, SpriteCovers State.reset 0 1 0xF cx cy → cellAt State.reset.fb cx cy = false := by
  have h : ∀ cx cy, ¬ SpriteCovers State.reset 0 1 0xF cx cy := by
    rintro cx cy ⟨r, c, -, -, hb, -⟩
    simp [State.reset, memRead] at hb
  exact ⟨h 5 5, fun cx cy hc => absurd hc (h cx cy)⟩

theorem witness_DrawTwiceRestoresTheScreen :
    (0 : RegIdx) ≠ 0xF ∧ (1 : RegIdx) ≠ 0xF ∧ corner.index.toNat + (1 : Nibble).val ≤ 4096 ∧
    answers (exec (.drw 0 1 1) corner) (fun t => answers (exec (.drw 0 1 1) t) fun _ => true) = true := by decide

/-- A blank screen, for the collision clause. -/
theorem witness_DrawTwiceRestoresTheScreen_blank : ∀ cx cy, cellAt State.reset.fb cx cy = false := cellAt_blankScreen

theorem witness_IndexInstructions : configWf defaultConfig = true := by decide

/-- The last index in range and the first out of range. -/
theorem witness_StoreBcdDigits :
    memWf (start [0xF033]).mem = true ∧ (State.reset.setIndex 0xFFD).index.toNat + 2 < 4096 ∧
    4096 ≤ (State.reset.setIndex 0xFFE).index.toNat + 2 := by decide

theorem witness_RegisterDump_and_RegisterLoad :
    memWf (start [0xFF55]).mem = true ∧ (State.reset.setIndex 0xFF0).index.toNat + (0xF : RegIdx).val < 4096 ∧
    4096 ≤ (State.reset.setIndex 0xFF1).index.toNat + (0xF : RegIdx).val ∧
    (State.reset.setIndex 0xFFF).index.toNat + (0 : RegIdx).val < 4096 ∧
    (withConfig State.reset increment).cfg.indexIncrement = true := by decide

/-- The dumped block itself, with its registers cleared, is a `u`. -/
theorem witness_LoadAfterDumpRestoresRegisters :
    memWf (withRegs (State.reset.setIndex 0xFF0) [(0xF, 9)]).mem = true ∧
    (withRegs (State.reset.setIndex 0xFF0) [(0xF, 9)]).index.toNat + (0xF : RegIdx).val < 4096 ∧
    answers (exec (.ldMemVx 0xF) (withRegs (State.reset.setIndex 0xFF0) [(0xF, 9)])) (fun t =>
      decide (t.index = 0xFF0) && answers (exec (.ldVxMem 0xF) (withRegs t [(0xF, 0)])) fun v => decide (v.reg 0xF = 9)) =
        true := by decide

theorem witness_CanonicalMemoriesAreEqualData :
    memWf [(0x200, 1), (0xFFF, 2)] = true ∧ ∀ a, memRead [(0x200, 1), (0xFFF, 2)] a = memRead [(0x200, 1), (0xFFF, 2)] a :=
  ⟨by decide, fun _ => rfl⟩

theorem witness_NextFetchSeesTheStore :
    memWf (start [0xF155]).mem = true ∧ (start [0xF155]).fault = none ∧ (start [0xF155]).pc.toNat + 1 < 4096 ∧
    1 ≤ (1 : RegIdx).val ∧ decodeWord ((start [0xF155]).setIndex 0x202).fetchWord = .known (.ldMemVx 1) ∧
    ((start [0xF155]).setIndex 0x202).index.toNat + (1 : RegIdx).val < 4096 ∧
    ((start [0xF155]).setIndex 0x202).index = ((start [0xF155]).setIndex 0x202).pc + 2 ∧
    answers (step ((start [0xF155]).setIndex 0x202)) (fun _ => true) = true := by decide

/-- Vx = 0x1F names key 0xF. -/
theorem witness_KeySkips : (0xF : Fin 16).val = ((withRegs State.reset [(1, 0x1F)]).reg 1).toNat % 16 := by decide

theorem witness_WaitForKeyTakesTheLeastPressed :
    ((setKey State.reset 0xF true).keyLevel 0xF = true ∧ ∀ j : Fin 16, j < 0xF → (setKey State.reset 0xF true).keyLevel j = false) ∧
    ((setKey State.reset 0 true).keyLevel 0 = true ∧ ∀ j : Fin 16, j < 0 → (setKey State.reset 0 true).keyLevel j = false) ∧
    ∀ k : Fin 16, State.reset.keyLevel k = false := by decide

theorem witness_WaitingBlockKeepsWaiting :
    waitingForKey (start [0xFF0A]) = true ∧ (start [0xFF0A]).cfg.timerMode = .hostTick := by decide

/-- Both modes; an instruction that writes DT, one that writes ST, one that writes neither. -/
theorem witness_CycleMovesTimersByMode :
    decodeWord (start [0xF515]).fetchWord = .known (.ldDtVx 5) ∧ decodeWord (start [0xF518]).fetchWord = .known (.ldStVx 5) ∧
    (∀ x, decodeWord (start [0x00E0]).fetchWord ≠ .known (.ldDtVx x)) ∧
    (∀ x, decodeWord (start [0x00E0]).fetchWord ≠ .known (.ldStVx x)) ∧
    answers (step (start [0xF515])) (fun t => decide (t.fault = none)) = true ∧
    answers (step (withConfig (start [0xF518]) perCycle)) (fun t => decide (t.fault = none)) = true ∧
    answers (step (start [0x00E0])) (fun t => decide (t.fault = none)) = true := by decide

theorem witness_TimerTickAndSetKey :
    State.reset.fault = none ∧ 0 < (State.reset.setDt 1).dt.toNat ∧ State.reset.dt.toNat = 0 ∧
    0 < (State.reset.setSt 255).st.toNat ∧ State.reset.st.toNat = 0 ∧ faulted.fault ≠ none ∧ (3 : Fin 16) ≠ 4 := by decide

theorem witness_LoadCopiesFontAndRom :
    memWf State.reset.mem = true ∧ configWf State.reset.cfg = true ∧
    (List.replicate 3584 (0xFF : Byte)).length ≤ maxRomSize State.reset.cfg ∧ faulted.fault ≠ none := by
  refine ⟨rfl, rfl, ?_, by decide⟩
  rw [List.length_replicate]; decide

theorem witness_OversizedRomChangesNothing :
    configWf State.reset.cfg = true ∧ memWf State.reset.mem = true ∧
    (List.replicate 3585 (0xFF : Byte)).length > maxRomSize State.reset.cfg ∧
    (List.replicate 3584 (0xFF : Byte)).length = maxRomSize State.reset.cfg := by
  refine ⟨rfl, rfl, ?_, ?_⟩ <;> rw [List.length_replicate] <;> decide

theorem witness_FramebufferPortAndSound : 63 < 64 ∧ 31 < 32 ∧ (State.reset.setSt 1).st.toNat > 0 ∧
    Operation.timerTick ≠ .reset ∧ Operation.timerTick ≠ .cycle ∧ answers (operate .timerTick State.reset) (fun _ => true) = true := by
  decide

theorem witness_GoodCyclesLatchOpcodeAndRedrawRnd :
    answers (step (start [0x00E0])) (fun t => decide (t.fault = none)) = true ∧
    answers (step (start [0x00EE])) (fun t => decide (t.fault ≠ none)) = true := by decide

theorem witness_OpcodeLatchIsNeverRead :
    (start [0x00E0]).fault = none ∧ answers (step (start [0x00E0])) (fun t => decide (t.fault = none)) = true := by decide

/-- Both stores change a byte. -/
theorem witness_OnlyStoresWriteMemory :
    memWf (start [0xF033]).mem = true ∧
    answers (step (withRegs ((start [0xF033]).setIndex 0x300) [(0, 1)])) (fun t => decide (t.byteAt 0x302 ≠ 0)) = true ∧
    answers (step (withRegs ((start [0xF055]).setIndex 0x300) [(0, 1)])) (fun t => decide (t.byteAt 0x300 ≠ 0)) = true := by
  decide

/-- CLS and DRW change a cell, CALL and RET change SP, CALL changes an entry. -/
theorem witness_OnlyTheirInstructionsTouchScreenStackAndKeys :
    answers (step ((start [0x00E0]).setFb (toggleCell blankScreen 1 1))) (fun t => !cellAt t.fb 1 1) = true ∧
    answers (step corner) (fun t => !cellAt t.fb 63 31) = true ∧
    answers (step (start [0x2300])) (fun t => decide (t.sp ≠ 0) && decide (t.stackEntry 0 ≠ some 0)) = true ∧
    answers (step ((start [0x00EE]).setSp 1)) (fun t => decide (t.sp ≠ 1)) = true := by decide

/-- One word for each clause, each changing VF. -/
theorem witness_OnlyFlagWritersAndDestinationsChangeVF :
    answers (step (withRegs (start [0x8014]) [(0, 0xFF), (1, 1)])) (fun t => decide (t.reg 0xF ≠ 0)) = true ∧
    answers (step corner) (fun t => decide (t.reg 0xF ≠ 0)) = true ∧
    answers (step (start [0x6F01])) (fun t => decide (t.reg 0xF ≠ 0)) = true ∧
    answers (step (withRegs (start [0x8F10]) [(1, 1)])) (fun t => decide (t.reg 0xF ≠ 0)) = true ∧
    answers (step ((start [0xFF07]).setDt 1)) (fun t => decide (t.reg 0xF ≠ 0)) = true ∧
    answers (step (setKey (start [0xFF0A]) 1 true)) (fun t => decide (t.reg 0xF ≠ 0)) = true ∧
    answers (step ((withBytes (start [0xFF65]) 0x30F [1]).setIndex 0x300)) (fun t => decide (t.reg 0xF ≠ 0)) = true := by
  decide

/-- One word for each clause, each changing I. -/
theorem witness_OnlyIndexInstructionsChangeIndex :
    answers (step (start [0xA300])) (fun t => decide (t.index ≠ 0)) = true ∧
    answers (step (withRegs (start [0xF01E]) [(0, 1)])) (fun t => decide (t.index ≠ 0)) = true ∧
    answers (step (withRegs (start [0xF029]) [(0, 1)])) (fun t => decide (t.index ≠ 0)) = true ∧
    answers (step (withConfig (start [0xF055]) increment)) (fun t => decide (t.index ≠ 0)) = true ∧
    answers (step (withConfig (start [0xF065]) increment)) (fun t => decide (t.index ≠ 0)) = true := by decide

/-- C7's block after its first cycle: the halt word at an odd address. -/
theorem witness_HaltedEndIsKept :
    haltedEnd { withBytes State.reset 0x203 [0x12, 0x03] with pc := 0x203 } = true ∧
    State.reset.cfg.timerMode = .hostTick := by decide

end Sys2Proof.Tests
end

/-! What one step can do and which fields and registers it can change (10_state.md), and the state family's obligations. -/

namespace Sys2Proof.Machine

/-! ### Everything a step can do -/

/-- The ways a step from `s` ends in a next state: the block was faulted; a fault is taken at the fetch, for an unknown word or
by the instruction; or the cycle ran to its end (40_cycle.md R92, R93, 60_exceptions.md R180 to R182). -/
inductive StepsTo (s : State) : State → Prop where
  | faulted (r : FaultRecord) (h : s.fault = some r) : StepsTo s (s.setResult (.fault r))
  | fetchFault (h : s.fault = none) (hpc : 4096 ≤ s.pc.toNat + 1) :
      StepsTo s (s.latchFault ⟨.fetchOutOfRange, s.pc, 0, max s.pc.toNat 4096⟩)
  | unknownFault (w : Word) (h : s.fault = none) (hpc : s.pc.toNat + 1 < 4096)
      (hd : decodeWord s.fetchWord = .unknown w) (hc : s.cfg.unknownOpcode = .fault) :
      StepsTo s (s.latchFault ⟨.invalidOpcode, s.pc, w, 0⟩)
  | unknownSkipped (w : Word) (h : s.fault = none) (hpc : s.pc.toNat + 1 < 4096)
      (hd : decodeWord s.fetchWord = .unknown w) (hc : s.cfg.unknownOpcode = .noOp) :
      StepsTo s ((s.advance.setResult (.unknown w)).endCycle s.fetchWord)
  | instrFault (i : Instr) (c : FaultCause) (a : Nat) (h : s.fault = none) (hpc : s.pc.toNat + 1 < 4096)
      (hd : decodeWord s.fetchWord = .known i) (hf : TakesFault s i c a) :
      StepsTo s (s.latchFault ⟨c, s.pc, encode i, a⟩)
  | ran (i : Instr) (u : State) (h : s.fault = none) (hpc : s.pc.toNat + 1 < 4096)
      (hd : decodeWord s.fetchWord = .known i) (hn : ∀ c a, ¬ TakesFault s i c a) (he : exec i s = .next u)
      (hu : u.fault = none) : StepsTo s (u.endCycle s.fetchWord)

/-- A faulted block only reports its record again (R92). -/
theorem step_faulted {s : State} {r : FaultRecord} (h : s.fault = some r) : step s = .next (s.setResult (.fault r)) := by
  simp [step, cycle, h]

theorem runWord_known {w : Word} {i : Instr} (h : decodeWord w = .known i) (s : State) : runWord w s = exec i s := by
  simp [runWord, h]

theorem runWord_unknown {w v : Word} (h : decodeWord w = .unknown v) (s : State) : runWord w s = unknownWord v s := by
  simp [runWord, h]

/-- The cycle answers a next state exactly when its execute phase does, and then ends the cycle there. -/
theorem runAndEnd_eq_next {w : Word} {s t : State} :
    runAndEnd w s = .next t ↔ ∃ u, runWord w s = .next u ∧ t = u.endCycle w := by
  unfold runAndEnd
  cases runWord w s <;> simp [eq_comm]

/-- Everything the execute phase of a cycle in range can do, once the end of the cycle is added. -/
theorem runWord_stepsTo {s u : State} (h : s.fault = none) (hpc : s.pc.toNat + 1 < 4096)
    (hr : runWord s.fetchWord s = .next u) : StepsTo s (u.endCycle s.fetchWord) := by
  cases hd : decodeWord s.fetchWord with
  | unknown w =>
    rw [runWord_unknown hd] at hr
    rcases unknownWord_cases w s with ⟨hc, e⟩ | ⟨hc, e⟩
    · obtain rfl := Host.Outcome.next.inj (e.symm.trans hr)
      rw [endCycle_of_fault rfl]
      exact .unknownFault w h hpc hd hc
    · obtain rfl := Host.Outcome.next.inj (e.symm.trans hr)
      exact .unknownSkipped w h hpc hd hc
  | known i =>
    rw [runWord_known hd] at hr
    rcases exec_cases i s with ⟨c, a, hf, e⟩ | ⟨-, -, e⟩ | ⟨hn, u', e, hfault, -⟩
    · obtain rfl := Host.Outcome.next.inj (e.symm.trans hr)
      rw [endCycle_of_fault rfl]
      exact .instrFault i c a h hpc hd hf
    · exact absurd (e.symm.trans hr) (by simp)
    · obtain rfl := Host.Outcome.next.inj (e.symm.trans hr)
      exact .ran i _ h hpc hd hn hr (hfault.trans h)

/-- Every step that answers a next state is one of these. -/
theorem step_cases {s t : State} (hs : step s = .next t) : StepsTo s t := by
  cases h : s.fault with
  | some r =>
    obtain rfl := Host.Outcome.next.inj ((step_faulted h).symm.trans hs)
    exact .faulted r h
  | none =>
    by_cases hpc : s.pc.toNat + 1 < 4096
    · rw [step_in h hpc, runAndEnd_eq_next] at hs
      obtain ⟨u, hr, rfl⟩ := hs
      exact runWord_stepsTo h hpc hr
    · have hpc : 4096 ≤ s.pc.toNat + 1 := by omega
      obtain rfl := Host.Outcome.next.inj ((step_out h hpc).symm.trans hs)
      exact .fetchFault h hpc

/-! ### Which fields a step can change -/

/-- A field holds the same data in two states; `sameField` compares memory, registers and cells by what reads of them give. -/
def sameData (f : Field) (s t : State) : Prop :=
  match f with
  | .cfg => t.cfg = s.cfg
  | .v => t.v = s.v
  | .index => t.index = s.index
  | .pc => t.pc = s.pc
  | .sp => t.sp = s.sp
  | .stack => t.stack = s.stack
  | .dt => t.dt = s.dt
  | .st => t.st = s.st
  | .mem => t.mem = s.mem
  | .fb => t.fb = s.fb
  | .key => t.key = s.key
  | .opcode => t.opcode = s.opcode
  | .rnd => t.rnd = s.rnd
  | .fault => t.fault = s.fault
  | .result => t.result = s.result
  | .draws => t.draws = s.draws

/-- Every field but the named ones holds the same data. -/
def ChangesOnly (fs : List Field) (s t : State) : Prop := ∀ f, f ∉ fs → sameData f s t

theorem sameField_of_sameData {f : Field} {s t : State} (h : sameData f s t) : sameField f s t := by
  cases f <;> simp_all [sameData, sameField]

theorem sameData.trans {f : Field} {s t u : State} (h : sameData f s t) (h' : sameData f t u) : sameData f s u := by
  cases f <;> exact Eq.trans h' h

theorem ChangesOnly.keepsAllBut {fs : List Field} {s t : State} (h : ChangesOnly fs s t) : KeepsAllBut fs s t :=
  fun f hf => sameField_of_sameData (h f hf)

/-- The fields an instruction may write when it takes no fault, beside PC and the cycle result. -/
def fieldsWritten (c : Config) : Instr → List Field
  | .cls => [.fb]
  | .drw _ _ _ => [.fb, .v]
  | .ret => [.sp]
  | .call _ => [.sp, .stack]
  | .ldImm _ _ | .addImm _ _ | .ldReg _ _ | .orReg _ _ | .andReg _ _ | .xorReg _ _ | .addReg _ _ | .sub _ _ | .subn _ _
  | .shr _ _ | .shl _ _ | .rnd _ _ | .ldVxDt _ | .ldVxK _ => [.v]
  | .ldI _ | .addIVx _ | .ldFVx _ => [.index]
  | .ldDtVx _ => [.dt]
  | .ldStVx _ => [.st]
  | .ldBVx _ => [.mem]
  | .ldMemVx _ => .mem :: if c.indexIncrement then [.index] else []
  | .ldVxMem _ => .v :: if c.indexIncrement then [.index] else []
  | .sys _ | .jp _ | .jpV0 _ | .seImm _ _ | .sneImm _ _ | .seReg _ _ _ | .sneReg _ _ _ | .skp _ | .sknp _ => []

/-- The fields the cycle itself may write, whatever it runs (R93, R94, R96, R97). -/
def cycleFields : List Field := [.pc, .result, .fault, .opcode, .rnd, .draws, .dt, .st]

/-! ### The next state of each instruction with a check of its own, when it takes no fault -/

section
variable {s u : State}

theorem exec_sys_ran {nnn : Addr12} (hn : ∀ c a, ¬ TakesFault s (.sys nnn) c a) (he : exec (.sys nnn) s = .next u) :
    u = s.advance.setResult (.unknown (encode (.sys nnn))) := by
  rcases unknownWord_cases (encode (.sys nnn)) s with ⟨hc, -⟩ | ⟨-, e⟩
  · exact absurd (.sys nnn hc) (hn _ _)
  · exact Host.Outcome.next.inj (he.symm.trans e)

theorem exec_call_ran {nnn : Addr12} (hn : ∀ c a, ¬ TakesFault s (.call nnn) c a) (he : exec (.call nnn) s = .next u) :
    s.sp.toNat < 16 ∧ u = ((s.advance.setStackEntry s.sp.toNat s.advance.pc).setSp (s.sp + 1)).setPc (zext16 nnn) := by
  have hsp : s.sp.toNat < 16 := by
    by_contra h
    exact hn _ _ (.call nnn (by omega))
  exact ⟨hsp, Host.Outcome.next.inj (he.symm.trans (exec_call_ok hsp))⟩

/-- With SP above 16 there is no entry to pop (notes/assumptions/6.md). -/
theorem exec_ret_of_sp_above (h : 16 < s.sp.toNat) : exec .ret s = .fault .noStackEntry := by
  have h0 : s.sp.toNat ≠ 0 := by omega
  have hnone : s.stackEntry (s.sp.toNat - 1) = none := Vector.getElem?_eq_none (by omega)
  simp only [exec, execRet, if_neg h0, hnone]

theorem exec_ret_ran (hn : ∀ c a, ¬ TakesFault s .ret c a) (he : exec .ret s = .next u) :
    0 < s.sp.toNat ∧ s.sp.toNat ≤ 16 ∧
      ∃ w, s.stackEntry (s.sp.toNat - 1) = some w ∧ u = (s.advance.setSp (s.sp - 1)).setPc w := by
  have h0 : 0 < s.sp.toNat := by
    by_contra h
    exact hn _ _ (.ret (by omega))
  have h16 : s.sp.toNat ≤ 16 := by
    by_contra h
    exact absurd ((exec_ret_of_sp_above (by omega)).symm.trans he) (by simp)
  obtain ⟨w, hw, e⟩ := exec_ret_ok h0 h16
  exact ⟨h0, h16, w, hw, Host.Outcome.next.inj (he.symm.trans e)⟩

theorem exec_drw_ran {x y : RegIdx} {n : Nibble} (hn : ∀ c a, ¬ TakesFault s (.drw x y n) c a)
    (he : exec (.drw x y n) s = .next u) : u = drawAndFlag s x y n := by
  have hr : n.val = 0 ∨ s.index.toNat + n.val - 1 < 4096 := by
    by_contra h
    exact hn _ _ (.drw x y n (by omega) (by omega))
  exact Host.Outcome.next.inj (he.symm.trans (exec_drw_ok hr))

theorem exec_ldBVx_ran {x : RegIdx} (hn : ∀ c a, ¬ TakesFault s (.ldBVx x) c a) (he : exec (.ldBVx x) s = .next u) :
    s.index.toNat + 2 < 4096 ∧ u = s.advance.setMem (memWriteBytes s.mem s.index.toNat (bcdDigits (s.reg x))) := by
  have hr : s.index.toNat + 2 < 4096 := by
    by_contra h
    exact hn _ _ (.ldBVx x (by omega))
  exact ⟨hr, Host.Outcome.next.inj (he.symm.trans (exec_ldBVx_ok hr))⟩

theorem exec_ldMemVx_ran {x : RegIdx} (hn : ∀ c a, ¬ TakesFault s (.ldMemVx x) c a)
    (he : exec (.ldMemVx x) s = .next u) :
    s.index.toNat + x.val < 4096 ∧
      u = (s.advance.setMem (memWriteBytes s.mem s.index.toNat (regBlock s.v x))).bumpIndex x := by
  have hr : s.index.toNat + x.val < 4096 := by
    by_contra h
    exact hn _ _ (.ldMemVx x (by omega))
  exact ⟨hr, Host.Outcome.next.inj (he.symm.trans (exec_ldMemVx_ok hr))⟩

theorem exec_ldVxMem_ran {x : RegIdx} (hn : ∀ c a, ¬ TakesFault s (.ldVxMem x) c a)
    (he : exec (.ldVxMem x) s = .next u) :
    s.index.toNat + x.val < 4096 ∧
      u = (s.advance.setRegs (loadBlock s.v 0 (memReadBytes s.mem s.index.toNat (x.val + 1)))).bumpIndex x := by
  have hr : s.index.toNat + x.val < 4096 := by
    by_contra h
    exact hn _ _ (.ldVxMem x (by omega))
  exact ⟨hr, Host.Outcome.next.inj (he.symm.trans (exec_ldVxMem_ok hr))⟩

theorem exec_ldVxK_cases {x : RegIdx} (he : exec (.ldVxK x) s = .next u) :
    (∃ k, firstPressed s.key = some k ∧ u = s.advance.setReg x (BitVec.ofNat 8 k)) ∨
    (firstPressed s.key = none ∧ u = s.advance.setPc (s.advance.pc - 2)) := by
  rw [exec, execLdVxK] at he
  cases hk : firstPressed s.key with
  | some k =>
    rw [hk] at he
    exact .inl ⟨k, rfl, (Host.Outcome.next.inj he).symm⟩
  | none =>
    rw [hk] at he
    exact .inr ⟨rfl, (Host.Outcome.next.inj he).symm⟩

end

/-! ### The frames of an instruction and of a step -/

/-- Under no QUIRK_INDEX_INCREMENT a dump or load leaves I alone (R164, R165). -/
theorem nextIndex_of_not_increment {c : Config} (h : c.indexIncrement = false) (w : Word) (x : RegIdx) :
    nextIndex c w x = w := by
  simp [nextIndex, h]

/-- An instruction that takes no fault changes PC, the cycle result and the fields it writes. -/
theorem exec_changesOnly {i : Instr} {s u : State} (hn : ∀ c a, ¬ TakesFault s i c a) (he : exec i s = .next u) :
    ChangesOnly (.pc :: .result :: fieldsWritten s.cfg i) s u := by
  intro f hf
  cases i with
  | sys nnn =>
    obtain rfl := exec_sys_ran hn he
    cases f <;> simp [sameData, fieldsWritten] at hf ⊢
  | call nnn =>
    obtain ⟨-, rfl⟩ := exec_call_ran hn he
    cases f <;> simp [sameData, fieldsWritten] at hf ⊢
  | ret =>
    obtain ⟨-, -, w, -, rfl⟩ := exec_ret_ran hn he
    cases f <;> simp [sameData, fieldsWritten] at hf ⊢
  | drw x y n =>
    obtain rfl := exec_drw_ran hn he
    cases f <;> simp [sameData, fieldsWritten, drawAndFlag] at hf ⊢
  | ldBVx x =>
    obtain ⟨-, rfl⟩ := exec_ldBVx_ran hn he
    cases f <;> simp [sameData, fieldsWritten] at hf ⊢
  | ldMemVx x =>
    obtain ⟨-, rfl⟩ := exec_ldMemVx_ran hn he
    cases hq : s.cfg.indexIncrement <;> cases f <;>
      simp [sameData, fieldsWritten, nextIndex_of_not_increment, hq] at hf ⊢
  | ldVxMem x =>
    obtain ⟨-, rfl⟩ := exec_ldVxMem_ran hn he
    cases hq : s.cfg.indexIncrement <;> cases f <;>
      simp [sameData, fieldsWritten, nextIndex_of_not_increment, hq] at hf ⊢
  | ldVxK x =>
    obtain ⟨k, -, rfl⟩ | ⟨-, rfl⟩ := exec_ldVxK_cases he <;>
      cases f <;> simp [sameData, fieldsWritten] at hf ⊢
  | _ =>
    obtain rfl := Host.Outcome.next.inj he
    cases f <;> simp [sameData, fieldsWritten] at hf ⊢

/-- The end of a cycle changes OPCODE, RND, the draw counter and the timers (R94, R96, R97). -/
theorem endCycle_changesOnly (u : State) (w : Word) : ChangesOnly [.opcode, .rnd, .draws, .dt, .st] u (u.endCycle w) := by
  obtain ⟨hmem, hfb, hsp, hstack, hkey, hv, hindex, hpc, hcfg, hresult, hfault⟩ := endCycle_fields u w
  intro f hf
  cases f <;> simp_all [sameData]

theorem latchFault_changesOnly (s : State) (r : FaultRecord) : ChangesOnly [.fault, .result] s (s.latchFault r) := by
  intro f hf
  cases f <;> simp [sameData] at hf ⊢

/-- Every step changes the cycle's own fields alone, or runs an instruction to its end. -/
theorem step_changesOnly_or_ran {s t : State} (hs : step s = .next t) :
    ChangesOnly cycleFields s t ∨
    ∃ i u, decodeWord s.fetchWord = .known i ∧ (∀ c a, ¬ TakesFault s i c a) ∧ exec i s = .next u ∧
      t = u.endCycle s.fetchWord := by
  have latched (r : FaultRecord) : ChangesOnly cycleFields s (s.latchFault r) :=
    fun f hf => latchFault_changesOnly s r f (by simp_all [cycleFields])
  cases step_cases hs with
  | faulted r h =>
    refine .inl fun f hf => ?_
    cases f <;> simp [sameData, cycleFields] at hf ⊢
  | fetchFault | unknownFault | instrFault => exact .inl (latched _)
  | unknownSkipped w =>
    refine .inl fun f hf => ?_
    have hadv : sameData f s (s.advance.setResult (.unknown w)) := by
      cases f <;> simp [sameData, cycleFields] at hf ⊢
    exact hadv.trans (endCycle_changesOnly _ _ f (by simp_all [cycleFields]))
  | ran i u h hpc hd hn he hu => exact .inr ⟨i, u, hd, hn, he, rfl⟩

/-- A field that a step changes is one of the cycle's own, or its instruction writes it. -/
theorem step_sameData_or_written {s t : State} (hs : step s = .next t) {f : Field} (hf : f ∉ cycleFields) :
    sameData f s t ∨ ∃ i, decodeWord s.fetchWord = .known i ∧ f ∈ fieldsWritten s.cfg i := by
  obtain hc | ⟨i, u, hd, hn, he, rfl⟩ := step_changesOnly_or_ran hs
  · exact .inl (hc f hf)
  · by_cases hw : f ∈ fieldsWritten s.cfg i
    · exact .inr ⟨i, hd, hw⟩
    · have hu : sameData f s u := exec_changesOnly hn he f (by simp_all [cycleFields])
      exact .inl (hu.trans (endCycle_changesOnly u _ f (by simp_all [cycleFields])))

/-- A field that a step changes and the cycle does not own is written by the instruction of the fetched word. -/
theorem step_changed_is_written {s t : State} (hs : step s = .next t) {f : Field} (hf : f ∉ cycleFields)
    (hne : ¬ sameField f s t) : ∃ i, decodeWord s.fetchWord = .known i ∧ f ∈ fieldsWritten s.cfg i :=
  (step_sameData_or_written hs hf).resolve_left fun h => hne (sameField_of_sameData h)

/-! ### Which instructions write a field -/

theorem cfg_not_mem_fieldsWritten (c : Config) (i : Instr) : Field.cfg ∉ fieldsWritten c i := by
  cases i <;> simp [fieldsWritten]

theorem key_not_mem_fieldsWritten (c : Config) (i : Instr) : Field.key ∉ fieldsWritten c i := by
  cases i <;> simp [fieldsWritten]

theorem mem_fieldsWritten_fb {c : Config} {i : Instr} (h : Field.fb ∈ fieldsWritten c i) :
    i = .cls ∨ ∃ x y n, i = .drw x y n := by
  cases i <;> simp_all [fieldsWritten]

theorem mem_fieldsWritten_sp {c : Config} {i : Instr} (h : Field.sp ∈ fieldsWritten c i) :
    i = .ret ∨ ∃ nnn, i = .call nnn := by
  cases i <;> simp_all [fieldsWritten]

theorem mem_fieldsWritten_stack {c : Config} {i : Instr} (h : Field.stack ∈ fieldsWritten c i) :
    ∃ nnn, i = .call nnn := by
  cases i <;> simp_all [fieldsWritten]

theorem mem_fieldsWritten_mem {c : Config} {i : Instr} (h : Field.mem ∈ fieldsWritten c i) :
    ∃ x, i = .ldBVx x ∨ i = .ldMemVx x := by
  cases i <;> simp_all [fieldsWritten]

theorem mem_fieldsWritten_index {c : Config} {i : Instr} (h : Field.index ∈ fieldsWritten c i) :
    (∃ nnn, i = .ldI nnn) ∨ (∃ x, i = .addIVx x ∨ i = .ldFVx x) ∨
      (c.indexIncrement = true ∧ ∃ x, i = .ldMemVx x ∨ i = .ldVxMem x) := by
  cases i <;> simp_all [fieldsWritten]

/-! ### Which registers an instruction writes -/

/-- The registers an instruction may write: its destination, VF where it sets the flag (R22), V0 to Vx for a load. -/
def regsWritten : Instr → List RegIdx
  | .ldImm x _ | .addImm x _ | .ldReg x _ | .orReg x _ | .andReg x _ | .xorReg x _ | .rnd x _ | .ldVxDt x | .ldVxK x => [x]
  | .addReg x _ | .sub x _ | .subn x _ | .shr x _ | .shl x _ => [x, flagReg]
  | .drw _ _ _ => [flagReg]
  | .ldVxMem x => (List.finRange 16).filter (· ≤ x)
  | _ => []

theorem readReg_writeReg_of_ne {r x : RegIdx} (h : r ≠ x) (v : RegFile) (b : Byte) :
    readReg (writeReg v x b) r = readReg v r := by
  rw [readReg_writeReg, if_neg h]

/-- FlagOp writes its destination and VF, in either order (R131). -/
theorem readReg_flagOp_of_ne {r x : RegIdx} (hx : r ≠ x) (hf : r ≠ flagReg) (order : FlagOrder) (f g : RegFile → Byte)
    (v : RegFile) : readReg (flagOp order x f g v) r = readReg v r := by
  cases order
  · simp only [readReg_flagOp_last, if_neg hx, if_neg hf]
  · simp only [readReg_flagOp_first, if_neg hx, if_neg hf]

/-- A load of V0 to Vx leaves the registers above Vx (R165). -/
theorem readReg_loadBlock_above {v : RegFile} {bs : List Byte} {r : RegIdx} (h : bs.length ≤ r.val) :
    readReg (loadBlock v 0 bs) r = readReg v r := by
  rw [readReg_loadBlock, if_pos (Nat.zero_le _), Nat.sub_zero, List.getD_eq_default _ _ h]

/-- An instruction that takes no fault keeps every register it does not write. -/
theorem exec_keepsRegsBut {i : Instr} {s u : State} (hn : ∀ c a, ¬ TakesFault s i c a) (he : exec i s = .next u) :
    KeepsRegsBut (regsWritten i) s u := by
  by_cases hv : Field.v ∈ fieldsWritten s.cfg i
  case neg =>
    have : u.v = s.v := exec_changesOnly hn he .v (by simp [hv])
    exact fun r _ => by simp [this]
  intro r hr
  cases i with
  | drw x y n =>
    obtain rfl := exec_drw_ran hn he
    simp_all [regsWritten, drawAndFlag]
  | ldVxMem x =>
    obtain ⟨-, rfl⟩ := exec_ldVxMem_ran hn he
    have hx : x < r := by simpa [regsWritten] using hr
    exact readReg_loadBlock_above (by simpa using hx)
  | ldVxK x =>
    obtain ⟨k, -, rfl⟩ | ⟨-, rfl⟩ := exec_ldVxK_cases he <;> simp_all [regsWritten]
  | addReg x y | sub x y | subn x y | shr x y | shl x y =>
    obtain rfl := Host.Outcome.next.inj he
    simp only [regsWritten, List.mem_cons, List.not_mem_nil, or_false, not_or] at hr
    exact readReg_flagOp_of_ne hr.1 hr.2 _ _ _ _
  | ldImm x nn | addImm x nn | ldReg x y | orReg x y | andReg x y | xorReg x y | rnd x nn | ldVxDt x =>
    obtain rfl := Host.Outcome.next.inj he
    exact readReg_writeReg_of_ne (by simpa [regsWritten] using hr) _ _
  | _ => simp [fieldsWritten] at hv

/-- A register that a step changes is one its instruction writes. -/
theorem step_reg_eq_or_written {s t : State} (hs : step s = .next t) (r : RegIdx) :
    t.reg r = s.reg r ∨ ∃ i, decodeWord s.fetchWord = .known i ∧ r ∈ regsWritten i := by
  obtain hc | ⟨i, u, hd, hn, he, rfl⟩ := step_changesOnly_or_ran hs
  · have : t.v = s.v := hc .v (by decide)
    exact .inl (by simp [this])
  · by_cases hw : r ∈ regsWritten i
    · exact .inr ⟨i, hd, hw⟩
    · have hv : (u.endCycle s.fetchWord).v = u.v := endCycle_changesOnly u _ .v (by decide)
      have hu : u.reg r = s.reg r := exec_keepsRegsBut hn he r hw
      exact .inl (by simpa [hv] using hu)

/-! ### The invariant through a step -/

theorem step_cfg {s t : State} (hs : step s = .next t) : t.cfg = s.cfg := by
  obtain h | ⟨i, -, hi⟩ := step_sameData_or_written hs (f := .cfg) (by decide)
  · exact h
  · exact absurd hi (cfg_not_mem_fieldsWritten s.cfg i)

/-- An instruction keeps memory canonical: its stores stay inside memory (R52, R56). -/
theorem exec_memWf {i : Instr} {s u : State} (hn : ∀ c a, ¬ TakesFault s i c a) (he : exec i s = .next u)
    (hm : memWf s.mem = true) : memWf u.mem = true := by
  by_cases hw : Field.mem ∈ fieldsWritten s.cfg i
  · obtain ⟨x, rfl | rfl⟩ := mem_fieldsWritten_mem hw
    · obtain ⟨hr, rfl⟩ := exec_ldBVx_ran hn he
      exact memWf_memWriteBytes hm (by simp only [bcdDigits, List.length_cons, List.length_nil, memSize]; omega)
    · obtain ⟨hr, rfl⟩ := exec_ldMemVx_ran hn he
      exact memWf_memWriteBytes hm (by simp only [length_regBlock, memSize]; omega)
  · have : u.mem = s.mem := exec_changesOnly hn he .mem (by simp [hw])
    rwa [this]

/-- An instruction keeps SP within 0..16 (R26). -/
theorem exec_sp_le {i : Instr} {s u : State} (hn : ∀ c a, ¬ TakesFault s i c a) (he : exec i s = .next u)
    (hsp : s.sp.toNat ≤ 16) : u.sp.toNat ≤ 16 := by
  by_cases hw : Field.sp ∈ fieldsWritten s.cfg i
  · obtain rfl | ⟨nnn, rfl⟩ := mem_fieldsWritten_sp hw
    · obtain ⟨h0, -, w, -, rfl⟩ := exec_ret_ran hn he
      have : (s.sp - 1).toNat = s.sp.toNat - 1 := by bv_omega
      exact this.trans_le (by omega)
    · obtain ⟨h16, rfl⟩ := exec_call_ran hn he
      have : (s.sp + 1).toNat = s.sp.toNat + 1 := by bv_omega
      exact this.trans_le (by omega)
  · have : u.sp = s.sp := exec_changesOnly hn he .sp (by simp [hw])
    rwa [this]

theorem step_memWf {s t : State} (hs : step s = .next t) (hm : memWf s.mem = true) : memWf t.mem = true := by
  obtain hc | ⟨i, u, -, hn, he, rfl⟩ := step_changesOnly_or_ran hs
  · have : t.mem = s.mem := hc .mem (by decide)
    rwa [this]
  · have : (u.endCycle s.fetchWord).mem = u.mem := endCycle_changesOnly u _ .mem (by decide)
    rw [this]
    exact exec_memWf hn he hm

theorem step_sp_le {s t : State} (hs : step s = .next t) (hsp : s.sp.toNat ≤ 16) : t.sp.toNat ≤ 16 := by
  obtain hc | ⟨i, u, -, hn, he, rfl⟩ := step_changesOnly_or_ran hs
  · have : t.sp = s.sp := hc .sp (by decide)
    rwa [this]
  · have : (u.endCycle s.fetchWord).sp = u.sp := endCycle_changesOnly u _ .sp (by decide)
    rw [this]
    exact exec_sp_le hn he hsp

theorem faultShown_of_ok {s : State} (h : s.fault = none) : faultShown s = true := by
  simp [faultShown, h]

theorem faultShown_latchFault {s : State} {r : FaultRecord} (h : r.cause ≠ .romTooLarge) :
    faultShown (s.latchFault r) = true := by
  simp [faultShown, h]

/-- RomTooLarge is Load's refusal and no instruction's fault (R180). -/
theorem TakesFault.cause_ne_romTooLarge {s : State} {i : Instr} {c : FaultCause} {a : Nat} (h : TakesFault s i c a) :
    c ≠ .romTooLarge := by
  cases h <;> simp

theorem endCycle_fault (u : State) (w : Word) : (u.endCycle w).fault = u.fault :=
  endCycle_changesOnly u w .fault (by decide)

theorem step_faultShown {s t : State} (hs : step s = .next t) (hf : faultShown s = true) : faultShown t = true := by
  cases step_cases hs with
  | faulted r h => simp_all [faultShown]
  | fetchFault => exact faultShown_latchFault (by simp)
  | unknownFault => exact faultShown_latchFault (by simp)
  | instrFault i c a h hpc hd ht => exact faultShown_latchFault ht.cause_ne_romTooLarge
  | unknownSkipped w h => exact faultShown_of_ok ((endCycle_fault _ _).trans h)
  | ran i u h hpc hd hn he hu => exact faultShown_of_ok ((endCycle_fault _ _).trans hu)

/-! ### A step always answers a next state -/

theorem runWord_next {s : State} (hsp : s.sp.toNat ≤ 16) (w : Word) : ∃ u, runWord w s = .next u := by
  cases hd : decodeWord w with
  | unknown v =>
    rw [runWord_unknown hd]
    obtain ⟨-, e⟩ | ⟨-, e⟩ := unknownWord_cases v s <;> exact ⟨_, e⟩
  | known i =>
    rw [runWord_known hd]
    obtain ⟨c, a, -, e⟩ | ⟨-, h, -⟩ | ⟨-, u, e, -⟩ := exec_cases i s
    · exact ⟨_, e⟩
    · omega
    · exact ⟨u, e⟩

/-! ### The host's operations and the parameters -/

theorem loadRom_cfg (s : State) (rom : List Byte) : (loadRom s rom).1.cfg = s.cfg := by
  unfold loadRom
  split
  · rfl
  · simp [loadFitting]

theorem timerTick_cfg (s : State) : (timerTick s).cfg = s.cfg := by
  unfold timerTick
  split <;> simp

/-! ### Canonical memories -/

theorem memWfFrom_cons {lo a : Nat} {v : Byte} {rest : MemCells} :
    memWfFrom lo ((a, v) :: rest) = true ↔ lo ≤ a ∧ a < memSize ∧ v ≠ 0 ∧ memWfFrom (a + 1) rest = true := by
  simp [memWfFrom, and_assoc]

theorem memRead_head (a : Nat) (v : Byte) (rest : MemCells) : memRead ((a, v) :: rest) a = v := by
  simp [memRead]

theorem memRead_cons_of_ne {a k : Nat} (h : k ≠ a) (v : Byte) (rest : MemCells) :
    memRead ((a, v) :: rest) k = memRead rest k := by
  simp [memRead, h]

/-- The first listed byte is not 0, so a canonical memory that reads it starts no later. -/
theorem le_head_of_reads_alike {m : MemCells} {lo a : Nat} {v : Byte} {rest : MemCells} (hv : v ≠ 0)
    (hm : memWfFrom lo m = true) (hr : memRead m a = memRead ((a, v) :: rest) a) : lo ≤ a := by
  by_contra h
  rw [memRead_below hm (by omega), memRead_head] at hr
  exact hv hr.symm

/-- Canonical memories that read alike list the same bytes. -/
theorem memWfFrom_ext {m m' : MemCells} {lo : Nat} (h : memWfFrom lo m = true) (h' : memWfFrom lo m' = true)
    (hr : ∀ a, memRead m a = memRead m' a) : m = m' := by
  induction m generalizing m' lo with
  | nil =>
    cases m' with
    | nil => rfl
    | cons c' rest' =>
      obtain ⟨-, -, hv', -⟩ := memWfFrom_cons.1 h'
      have : c'.1 + 1 ≤ c'.1 := le_head_of_reads_alike (m := []) hv' rfl (hr c'.1)
      omega
  | cons c rest ih =>
    obtain ⟨a, v⟩ := c
    obtain ⟨hlo, hlt, hv, hrest⟩ := memWfFrom_cons.1 h
    cases m' with
    | nil =>
      have : a + 1 ≤ a := le_head_of_reads_alike (m := []) hv rfl (hr a).symm
      omega
    | cons c' rest' =>
      obtain ⟨a', v'⟩ := c'
      obtain ⟨hlo', hlt', hv', hrest'⟩ := memWfFrom_cons.1 h'
      have hle : a' ≤ a :=
        le_head_of_reads_alike hv (memWfFrom_cons.2 ⟨le_refl a', hlt', hv', hrest'⟩) (hr a).symm
      have hge : a ≤ a' := le_head_of_reads_alike hv' (memWfFrom_cons.2 ⟨le_refl a, hlt, hv, hrest⟩) (hr a')
      obtain rfl := Nat.le_antisymm hle hge
      obtain rfl : v = v' := by simpa only [memRead_head] using hr a'
      have hrr : ∀ k, memRead rest k = memRead rest' k := by
        intro k
        by_cases hk : k = a'
        · rw [memRead_below hrest (by omega), memRead_below hrest' (by omega)]
        · simpa only [memRead_cons_of_ne hk] using hr k
      rw [ih hrest hrest' hrr]

/-! ### The OPCODE latch -/

/-- An outcome with its next state, where it has one, changed by `f`. -/
def mapNext (f : State → State) (o : Host.Outcome State Fault Refusal) : Host.Outcome State Fault Refusal :=
  match o with
  | .next t => .next (f t)
  | .fault r => .fault r
  | .refused r => .refused r

theorem guardRange_setOpcode (cause : FaultCause) (a k : Nat) (w v : Word) (s : State)
    (ok : Host.Outcome State Fault Refusal) :
    guardRange cause a k w (s.setOpcode v) (mapNext (·.setOpcode v) ok) =
      mapNext (·.setOpcode v) (guardRange cause a k w s ok) := by
  unfold guardRange
  split <;> rfl

theorem unknownWord_setOpcode (w v : Word) (s : State) :
    unknownWord w (s.setOpcode v) = mapNext (·.setOpcode v) (unknownWord w s) := by
  unfold unknownWord
  rw [State.setOpcode_cfg]
  split <;> rfl

/-- No instruction reads OPCODE or writes it (R33): a different latch goes through as it is. -/
theorem exec_setOpcode (i : Instr) (v : Word) (s : State) :
    exec i (s.setOpcode v) = mapNext (·.setOpcode v) (exec i s) := by
  cases i with
  | sys nnn => exact unknownWord_setOpcode _ v s
  | call nnn =>
    simp only [exec, execCall, State.setOpcode_sp]
    rw [apply_ite (mapNext (·.setOpcode v))]
    rfl
  | ret =>
    simp only [exec, execRet, State.setOpcode_sp, State.stackEntry_eq, State.setOpcode_stack]
    rw [apply_ite (mapNext (·.setOpcode v))]
    cases s.stack[s.sp.toNat - 1]? <;> rfl
  | drw x y n =>
    simp only [exec, execDrw]
    rw [apply_ite (mapNext (·.setOpcode v)), ← guardRange_setOpcode]
    rfl
  | ldBVx x | ldMemVx x | ldVxMem x =>
    simp only [exec, execLdBVx, execLdMemVx, execLdVxMem]
    rw [← guardRange_setOpcode]
    rfl
  | ldVxK x =>
    simp only [exec, execLdVxK, State.setOpcode_key]
    split <;> rfl
  | _ => rfl

theorem runWord_setOpcode (w v : Word) (s : State) :
    runWord w (s.setOpcode v) = mapNext (·.setOpcode v) (runWord w s) := by
  unfold runWord
  split
  · exact exec_setOpcode _ v s
  · exact unknownWord_setOpcode _ v s

theorem endCycle_setOpcode_of_fault {u : State} (h : u.fault ≠ none) (v w : Word) :
    (u.setOpcode v).endCycle w = (u.endCycle w).setOpcode v := by
  obtain ⟨r, hr⟩ := Option.ne_none_iff_exists'.1 h
  rw [endCycle_of_fault hr]
  exact endCycle_of_fault (t := u.setOpcode v) hr w

/-- A good end of a cycle overwrites OPCODE (R94). -/
theorem endCycle_setOpcode_of_ok {u : State} (h : u.fault = none) (v w : Word) :
    (u.setOpcode v).endCycle w = u.endCycle w := by
  rw [endCycle_of_ok h, endCycle_of_ok (t := u.setOpcode v) h, State.setOpcode_cfg]
  rfl

theorem setOpcode_changesOnly (s : State) (v : Word) : ChangesOnly [.opcode] s (s.setOpcode v) := by
  intro f hf
  cases f <;> simp [sameData] at hf ⊢

/-- A different OPCODE before a step is still there after a fault, and gone after a good cycle. -/
theorem step_setOpcode {s t : State} (hs : step s = .next t) (v : Word) :
    (t.fault ≠ none ∧ step (s.setOpcode v) = .next (t.setOpcode v)) ∨
    (t.fault = none ∧ step (s.setOpcode v) = .next t) := by
  cases h : s.fault with
  | some r =>
    obtain rfl := Host.Outcome.next.inj ((step_faulted h).symm.trans hs)
    exact .inl ⟨by simp [h], step_faulted (s := s.setOpcode v) h⟩
  | none =>
    by_cases hpc : s.pc.toNat + 1 < 4096
    · rw [step_in h hpc, runAndEnd_eq_next] at hs
      obtain ⟨u, hu, rfl⟩ := hs
      have hu' : runWord s.fetchWord (s.setOpcode v) = .next (u.setOpcode v) := by
        rw [runWord_setOpcode, hu]
        rfl
      have hs' : step (s.setOpcode v) = .next ((u.setOpcode v).endCycle s.fetchWord) :=
        (step_in (s := s.setOpcode v) h hpc).trans (runAndEnd_eq_next.2 ⟨_, hu', rfl⟩)
      by_cases hf : u.fault = none
      · rw [endCycle_setOpcode_of_ok hf] at hs'
        exact .inr ⟨(endCycle_fault u _).trans hf, hs'⟩
      · rw [endCycle_setOpcode_of_fault hf] at hs'
        exact .inl ⟨by rwa [endCycle_fault], hs'⟩
    · have hpc : 4096 ≤ s.pc.toNat + 1 := by omega
      obtain rfl := Host.Outcome.next.inj ((step_out h hpc).symm.trans hs)
      exact .inl ⟨by simp, step_out (s := s.setOpcode v) h hpc⟩

/-! ### The obligations -/

/-- Settles O9: the parameters never change, and each of the other three parts is kept by a lemma of its own. -/
theorem stepKeepsInvariant : Obligations.StepKeepsInvariant := by
  rintro s t ⟨hmem, hsp, hcfg, hshown⟩ hs
  exact ⟨step_memWf hs hmem, step_sp_le hs hsp, by rwa [step_cfg hs], step_faultShown hs hshown⟩

/-- Settles O8: only RET with SP above 16 stops, and every other path ends in a next state. -/
theorem stepAlwaysAnswersANextState : Obligations.StepAlwaysAnswersANextState := by
  intro s hsp
  cases h : s.fault with
  | some r => exact ⟨_, step_faulted h⟩
  | none =>
    by_cases hpc : s.pc.toNat + 1 < 4096
    · obtain ⟨u, hu⟩ := runWord_next hsp s.fetchWord
      exact ⟨_, (step_in h hpc).trans (runAndEnd_eq_next.2 ⟨u, hu, rfl⟩)⟩
    · exact ⟨_, step_out h (by omega)⟩

/-- Settles O11: by cases on the operation, a Cycle by the frame of a step. -/
theorem parametersNeverChange : Obligations.ParametersNeverChange := by
  intro o s t h
  cases o with
  | reset =>
    obtain rfl := Host.Outcome.next.inj h
    rw [resetBlock_eq]
  | load rom =>
    obtain rfl := Host.Outcome.next.inj h
    exact loadRom_cfg s rom
  | cycle => exact step_cfg h
  | timerTick =>
    obtain rfl := Host.Outcome.next.inj h
    exact timerTick_cfg s
  | setKey k b =>
    obtain rfl := Host.Outcome.next.inj h
    rfl

/-- Settles O43: the canonical form fixes the list, read by read from its first address. -/
theorem canonicalMemoriesAreEqualData : Obligations.CanonicalMemoriesAreEqualData :=
  fun _ _ h h' hr => memWfFrom_ext h h' hr

/-- Settles O55: the state after the step carries the other latch, or after a good cycle is the same state. -/
theorem opcodeLatchIsNeverRead : Obligations.OpcodeLatchIsNeverRead := by
  intro s t v hs
  obtain ⟨hfault, h⟩ | ⟨-, h⟩ := step_setOpcode hs v
  · exact ⟨_, h, (setOpcode_changesOnly t v).keepsAllBut, fun _ hok => absurd hok hfault⟩
  · exact ⟨t, h, fun f _ => sameField_of_sameData (by cases f <;> rfl), fun _ _ => rfl⟩

/-- Settles O57: the instructions that write the screen, SP or the stack are the named ones, and none writes the keypad. -/
theorem onlyTheirInstructionsTouchScreenStackAndKeys : Obligations.OnlyTheirInstructionsTouchScreenStackAndKeys := by
  intro s t hs
  refine ⟨fun ⟨x, y, hne⟩ => ?_, fun hne => ?_, fun ⟨k, hne⟩ => ?_, ?_⟩
  · obtain ⟨i, hd, hi⟩ := step_changed_is_written hs (f := .fb) (by decide) fun h => hne (h x y)
    obtain rfl | ⟨x, y, n, rfl⟩ := mem_fieldsWritten_fb hi
    · exact .inl hd
    · exact .inr ⟨x, y, n, hd⟩
  · obtain ⟨i, hd, hi⟩ := step_changed_is_written hs (f := .sp) (by decide) hne
    obtain rfl | ⟨nnn, rfl⟩ := mem_fieldsWritten_sp hi
    · exact .inl hd
    · exact .inr ⟨nnn, hd⟩
  · obtain ⟨i, hd, hi⟩ := step_changed_is_written hs (f := .stack) (by decide) fun h => hne (h k)
    obtain ⟨nnn, rfl⟩ := mem_fieldsWritten_stack hi
    exact ⟨nnn, hd⟩
  · obtain h | ⟨i, -, hi⟩ := step_sameData_or_written hs (f := .key) (by decide)
    · exact sameField_of_sameData h
    · exact absurd hi (key_not_mem_fieldsWritten s.cfg i)

/-- Settles O58: VF changes only where the fetched word's instruction has it among the registers it writes. -/
theorem onlyFlagWritersAndDestinationsChangeVF : Obligations.OnlyFlagWritersAndDestinationsChangeVF := by
  intro s t hs hne
  obtain ⟨i, hd, hi⟩ := (step_reg_eq_or_written hs 0xF).resolve_left hne
  refine ⟨i, hd, ?_⟩
  cases i with
  | ldVxMem x =>
    have : 0xF ≤ x := by simpa [regsWritten] using hi
    simp [le_antisymm (Fin.le_last x) this]
  | _ => simp_all [regsWritten]

/-- Settles O59: by the list of the instructions that write I. -/
theorem onlyIndexInstructionsChangeIndex : Obligations.OnlyIndexInstructionsChangeIndex := by
  intro s t hs hne
  obtain ⟨i, hd, hi⟩ := step_changed_is_written hs (f := .index) (by decide) hne
  exact ⟨i, hd, mem_fieldsWritten_index hi⟩

/-- Settles O2: each part by evaluating the reset state. -/
theorem resetMeetsInvariant : Obligations.ResetMeetsInvariant :=
  ⟨rfl, Nat.zero_le 16, by decide, rfl⟩

/-- Settles O22: above SP 16 the entry to pop does not exist. -/
theorem returnWithoutEntryStops : Obligations.ReturnWithoutEntryStops :=
  fun _ h => exec_ret_of_sp_above h

end Sys2Proof.Machine

/-! What a store leaves in memory and what the next fetch reads there (20_memory.md), and the memory family's obligations. -/

namespace Sys2Proof.Machine

/-! ### Reads after a block write -/

/-- A byte that a block write changes lies in the block (R56). -/
theorem in_block_of_memWriteBytes_ne {m : MemCells} {a k : Nat} {bs : List Byte} (hm : memWf m = true)
    (ha : a + bs.length ≤ memSize) (hne : memRead (memWriteBytes m a bs) k ≠ memRead m k) :
    a ≤ k ∧ k < a + bs.length := by
  by_contra hk
  exact hne (by rw [memRead_memWriteBytes hm ha, if_neg hk])

/-- A dump of V0 to Vx from address `a` leaves Vr at `a + r` (R164). -/
theorem memRead_memWriteBytes_regBlock {m : MemCells} {a : Nat} {x r : RegIdx} (v : RegFile) (hm : memWf m = true)
    (ha : a + x.val < memSize) (hr : r ≤ x) :
    memRead (memWriteBytes m a (regBlock v x)) (a + r.val) = readReg v r := by
  have hin : a ≤ a + r.val ∧ a + r.val < a + (regBlock v x).length := by
    rw [length_regBlock]
    have : r.val ≤ x.val := hr
    omega
  rw [memRead_memWriteBytes hm (by rw [length_regBlock]; omega), if_pos hin, Nat.add_sub_cancel_left,
    List.getD_eq_getElem?_getD, getElem?_regBlock v x r hr, Option.getD_some]

/-- The byte at the lower address is the high one (R53). -/
theorem toNat_wordOfBytes (hi lo : Byte) : (wordOfBytes hi lo).toNat = 256 * hi.toNat + lo.toNat := by
  simp only [wordOfBytes, BitVec.toNat_ofNat]
  omega

/-! ### The stores -/

/-- A byte that an instruction changes lies in the range from I of LD B or of a register dump (R50, R54). -/
theorem exec_changed_byte_in_store {i : Instr} {s u : State} {a : Nat} (hn : ∀ c a, ¬ TakesFault s i c a)
    (he : exec i s = .next u) (hm : memWf s.mem = true) (hne : u.byteAt a ≠ s.byteAt a) :
    (∃ x, i = .ldBVx x ∧ s.index.toNat ≤ a ∧ a ≤ s.index.toNat + 2) ∨
    (∃ x, i = .ldMemVx x ∧ s.index.toNat ≤ a ∧ a ≤ s.index.toNat + x.val) := by
  have hw : Field.mem ∈ fieldsWritten s.cfg i := by
    by_contra hw
    have hmem : u.mem = s.mem := exec_changesOnly hn he .mem (by simp [hw])
    exact hne (congrArg (memRead · a) hmem)
  obtain ⟨x, rfl | rfl⟩ := mem_fieldsWritten_mem hw
  · obtain ⟨hr, rfl⟩ := exec_ldBVx_ran hn he
    have hlen : (bcdDigits (s.reg x)).length = 3 := rfl
    obtain ⟨hlo, hhi⟩ := in_block_of_memWriteBytes_ne hm (by simp only [hlen, memSize]; omega) hne
    exact .inl ⟨x, rfl, hlo, by omega⟩
  · obtain ⟨hr, rfl⟩ := exec_ldMemVx_ran hn he
    have hlen := length_regBlock s.v x
    obtain ⟨hlo, hhi⟩ := in_block_of_memWriteBytes_ne hm (by simp only [hlen, memSize]; omega) hne
    exact .inr ⟨x, rfl, hlo, by omega⟩

/-- A step that runs a register dump in range leaves the block in memory and PC at the next word (R164). -/
theorem step_ldMemVx_mem_pc {s t : State} {x : RegIdx} (h : s.fault = none) (hpc : s.pc.toNat + 1 < 4096)
    (hd : decodeWord s.fetchWord = .known (.ldMemVx x)) (hr : s.index.toNat + x.val < 4096) (hs : step s = .next t) :
    t.mem = memWriteBytes s.mem s.index.toNat (regBlock s.v x) ∧ t.pc = s.pc + 2 := by
  rw [step_in h hpc, runAndEnd_eq_next] at hs
  obtain ⟨u, hu, rfl⟩ := hs
  rw [runWord_known hd, exec_ldMemVx_ok hr] at hu
  obtain rfl := Host.Outcome.next.inj hu
  exact ⟨endCycle_changesOnly _ _ .mem (by decide), endCycle_changesOnly _ _ .pc (by decide)⟩

/-! ### The obligations -/

/-- Settles O44: the dump leaves V0 and V1 at I and I + 1, which is where PC then points. -/
theorem nextFetchSeesTheStore : Obligations.NextFetchSeesTheStore := by
  intro s t x hm hfault hpc hx hd hr hi hs
  obtain ⟨hmem, htpc⟩ := step_ldMemVx_mem_pc hfault hpc hd hr hs
  have hat : t.pc.toNat = s.index.toNat := by rw [htpc, hi]
  have hV0 : t.byteAt t.pc.toNat = s.reg 0 := by
    rw [State.byteAt, hmem, hat]
    exact memRead_memWriteBytes_regBlock s.v hm hr (Fin.zero_le x)
  have hV1 : t.byteAt (t.pc.toNat + 1) = s.reg 1 := by
    rw [State.byteAt, hmem, hat]
    exact memRead_memWriteBytes_regBlock (r := 1) s.v hm hr hx
  rw [State.fetchWord, toNat_wordOfBytes, hV0, hV1]

/-- Settles O56: the end of a cycle keeps memory, so the instruction the step ran changed the byte. -/
theorem onlyStoresWriteMemory : Obligations.OnlyStoresWriteMemory := by
  intro s t a hm hs hne
  obtain hc | ⟨i, u, hd, hn, he, rfl⟩ := step_changesOnly_or_ran hs
  · have hmem : t.mem = s.mem := hc .mem (by decide)
    exact absurd (congrArg (memRead · a) hmem) hne
  · have hmem : (u.endCycle s.fetchWord).mem = u.mem := endCycle_changesOnly u _ .mem (by decide)
    rw [State.byteAt, hmem] at hne
    obtain ⟨x, rfl, hrange⟩ | ⟨x, rfl, hrange⟩ := exec_changed_byte_in_store hn he hm hne
    · exact .inl ⟨x, hd, hrange⟩
    · exact .inr ⟨x, hd, hrange⟩

end Sys2Proof.Machine

/-! The decoder and the encoder are inverse to each other, and which words they leave unrecognized (30_encoding.md); the encoding
family's obligations. -/

namespace Sys2Proof.Machine

/-! ### A word from its fields (R71, R73) -/

theorem fieldOp_lt (w : Word) : fieldOp w < 16 := by
  have := w.isLt
  simp only [fieldOp]
  omega

section
variable {w : Word} {op : Nat}

theorem formatFA_of_fields (hop : fieldOp w = op) : formatFA op (fieldNnn w) = w := by
  apply BitVec.eq_of_toNat_eq
  simp only [← hop, formatFA, fieldOp, fieldNnn, BitVec.toNat_ofNat]
  omega

theorem formatFI_of_fields {nn : Byte} (hop : fieldOp w = op) (hnn : fieldNn w = nn) :
    formatFI op (fieldX w) nn = w := by
  apply BitVec.eq_of_toNat_eq
  simp only [← hop, ← hnn, formatFI, fieldOp, fieldX, fieldNn, BitVec.toNat_ofNat, Fin.val_ofNat]
  omega

theorem formatFR_of_fields {n : Nibble} (hop : fieldOp w = op) (hn : fieldN w = n) :
    formatFR op (fieldX w) (fieldY w) n = w := by
  apply BitVec.eq_of_toNat_eq
  simp only [← hop, ← hn, formatFR, fieldOp, fieldX, fieldY, fieldN, BitVec.toNat_ofNat, Fin.val_ofNat]
  omega

end

/-- Words with different addresses in bits 11 to 0 differ. -/
theorem formatFA_ne {op : Nat} (hop : op < 16) {nnn : Addr12} {w : Word} (h : nnn ≠ fieldNnn w) :
    formatFA op nnn ≠ w := by
  rintro rfl
  exact h (fields_formatFA op hop nnn).1.symm

/-- The format's word with the factors in the order of R76's patterns. -/
theorem formatFI_eq_ofNat (op : Nat) (x : RegIdx) (nn : Byte) :
    formatFI op x nn = BitVec.ofNat 16 (op * 4096 + 256 * x.val + nn.toNat) := by
  rw [formatFI, Nat.mul_comm x.val]

/-- The format's word with the factors in the order of R76's patterns. -/
theorem formatFR_eq_ofNat (op : Nat) (x y : RegIdx) (n : Nibble) :
    formatFR op x y n = BitVec.ofNat 16 (op * 4096 + 256 * x.val + 16 * y.val + n.val) := by
  rw [formatFR, Nat.mul_comm x.val, Nat.mul_comm y.val]

/-- The two bytes of a word, high byte first, are the word again (R53). -/
theorem wordOfBytes_highByte_lowByte (w : Word) : wordOfBytes (highByte w) (lowByte w) = w := by
  have := w.isLt
  apply BitVec.eq_of_toNat_eq
  simp only [toNat_wordOfBytes, highByte, lowByte, BitVec.toNat_ofNat]
  omega

/-- R77: the two words that SYS does not cover. -/
theorem wf_sys {nnn : Addr12} : (Instr.sys nnn).wf = true ↔ nnn ≠ 0x0E0 ∧ nnn ≠ 0x0EE := by
  simp [Instr.wf]

/-! ### Decoding an encoded instruction -/

/-- The decoder reads every well-formed instruction from its own word (R72, R76). -/
theorem decodeWord_encode {i : Instr} (h : i.wf = true) : decodeWord (encode i) = .known i := by
  cases i with
  | cls | ret => rfl
  | sys nnn =>
    obtain ⟨hcls, hret⟩ := wf_sys.1 h
    have hwcls : formatFA 0x0 nnn ≠ 0x00E0 := formatFA_ne (by decide) hcls
    have hwret : formatFA 0x0 nnn ≠ 0x00EE := formatFA_ne (by decide) hret
    simp only [encode, decodeWord, decodeFamily0, fields_formatFA, if_neg hwcls, if_neg hwret, Nat.ofNat_pos]
  | jp nnn | call nnn | ldI nnn | jpV0 nnn => simp [encode, decodeWord, fields_formatFA]
  | seImm x nn | sneImm x nn | ldImm x nn | addImm x nn | rnd x nn => simp [encode, decodeWord, fields_formatFI]
  | seReg x y n | sneReg x y n | drw x y n => simp [encode, decodeWord, fields_formatFR]
  | ldReg x y | orReg x y | andReg x y | xorReg x y | addReg x y | sub x y | shr x y | subn x y | shl x y =>
    simp [encode, decodeWord, decodeFamily8, fields_formatFR]
  | skp x | sknp x => simp [encode, decodeWord, decodeFamilyE, fields_formatFI]
  | ldVxDt x | ldVxK x | ldDtVx x | ldStVx x | addIVx x | ldFVx x | ldBVx x | ldMemVx x | ldVxMem x =>
    simp [encode, decodeWord, decodeFamilyF, fields_formatFI]

/-- A well-formed instruction and the number of its word. -/
theorem encodes_of_encode_eq {i : Instr} {n : Nat} (h : i.wf = true) (hn : encode i = BitVec.ofNat 16 n) :
    Encodes i n :=
  ⟨hn ▸ decodeWord_encode h, hn⟩

/-! ### The word of a decoded instruction -/

/-- The answer `d` accounts for every bit of the word `w`: it is a well-formed instruction whose encoding is `w`, or it is
Unknown of `w` itself (R72). -/
def AccountsFor (w : Word) : Decoded → Prop
  | .known i => encode i = w ∧ i.wf = true
  | .unknown u => u = w

section
variable {w : Word}

theorem decodeFamily0_accountsFor (hop : fieldOp w = 0x0) : AccountsFor w (decodeFamily0 w) := by
  have hw : formatFA 0x0 (fieldNnn w) = w := formatFA_of_fields hop
  unfold decodeFamily0
  split_ifs with hcls hret
  · exact ⟨hcls.symm, rfl⟩
  · exact ⟨hret.symm, rfl⟩
  · have h0E0 : fieldNnn w ≠ 0x0E0 := fun h => hcls (by rw [← hw, h]; rfl)
    have h0EE : fieldNnn w ≠ 0x0EE := fun h => hret (by rw [← hw, h]; rfl)
    exact ⟨hw, wf_sys.2 ⟨h0E0, h0EE⟩⟩

theorem decodeFamily8_accountsFor (hop : fieldOp w = 0x8) : AccountsFor w (decodeFamily8 w) := by
  unfold decodeFamily8
  split
  case h_10 => rfl
  all_goals exact ⟨formatFR_of_fields hop (Fin.ext ‹_›), rfl⟩

theorem decodeFamilyE_accountsFor (hop : fieldOp w = 0xE) : AccountsFor w (decodeFamilyE w) := by
  unfold decodeFamilyE
  split_ifs with hskp hsknp
  · exact ⟨formatFI_of_fields hop hskp, rfl⟩
  · exact ⟨formatFI_of_fields hop hsknp, rfl⟩
  · rfl

theorem decodeFamilyF_accountsFor (hop : fieldOp w = 0xF) : AccountsFor w (decodeFamilyF w) := by
  unfold decodeFamilyF
  split_ifs
  case neg => rfl
  all_goals exact ⟨formatFI_of_fields hop ‹_›, rfl⟩

end

/-- No answer of the decoder drops a bit of its word. -/
theorem decodeWord_accountsFor (w : Word) : AccountsFor w (decodeWord w) := by
  unfold decodeWord
  split
  case h_1 hop => exact decodeFamily0_accountsFor hop
  case h_9 hop => exact decodeFamily8_accountsFor hop
  case h_15 hop => exact decodeFamilyE_accountsFor hop
  case h_16 hop => exact decodeFamilyF_accountsFor hop
  case h_2 hop | h_3 hop | h_11 hop | h_12 hop => exact ⟨formatFA_of_fields hop, rfl⟩
  case h_4 hop | h_5 hop | h_7 hop | h_8 hop | h_13 hop => exact ⟨formatFI_of_fields hop rfl, rfl⟩
  case h_6 hop | h_10 hop | h_14 hop => exact ⟨formatFR_of_fields hop rfl, rfl⟩
  case h_17 => rfl

/-! ### Unrecognized words (R82) -/

/-- The decoder's answers that R82 calls unrecognized: Unknown, and SYS (R77). -/
def Unrecognized (d : Decoded) : Prop := (∃ u, d = .unknown u) ∨ ∃ nnn, d = .known (.sys nnn)

@[simp] theorem unrecognized_unknown (w : Word) : Unrecognized (.unknown w) := .inl ⟨w, rfl⟩

@[simp] theorem unrecognized_known (i : Instr) : Unrecognized (.known i) ↔ ∃ nnn, i = .sys nnn := by
  simp [Unrecognized]

theorem unrecognized_decodeFamily0 (w : Word) : Unrecognized (decodeFamily0 w) ↔ w ≠ 0x00E0 ∧ w ≠ 0x00EE := by
  unfold decodeFamily0
  split_ifs <;> simp_all

theorem unrecognized_decodeFamily8 (w : Word) :
    Unrecognized (decodeFamily8 w) ↔ (fieldN w).val ∈ [0x8, 0x9, 0xA, 0xB, 0xC, 0xD, 0xF] := by
  unfold decodeFamily8
  generalize fieldN w = n
  fin_cases n <;> simp

theorem unrecognized_decodeFamilyE (w : Word) :
    Unrecognized (decodeFamilyE w) ↔ (fieldNn w).toNat ∉ [0x9E, 0xA1] := by
  unfold decodeFamilyE
  split_ifs <;> simp_all [BitVec.toNat_eq]

theorem unrecognized_decodeFamilyF (w : Word) :
    Unrecognized (decodeFamilyF w) ↔
      (fieldNn w).toNat ∉ [0x07, 0x0A, 0x15, 0x18, 0x1E, 0x29, 0x33, 0x55, 0x65] := by
  unfold decodeFamilyF
  split_ifs <;> simp_all [BitVec.toNat_eq]

/-- R82's list, one line for each family that has unrecognized words. -/
theorem unrecognized_decodeWord (w : Word) :
    Unrecognized (decodeWord w) ↔
      (fieldOp w = 0x0 ∧ w ≠ 0x00E0 ∧ w ≠ 0x00EE) ∨
      (fieldOp w = 0x8 ∧ (fieldN w).val ∈ [0x8, 0x9, 0xA, 0xB, 0xC, 0xD, 0xF]) ∨
      (fieldOp w = 0xE ∧ (fieldNn w).toNat ∉ [0x9E, 0xA1]) ∨
      (fieldOp w = 0xF ∧ (fieldNn w).toNat ∉ [0x07, 0x0A, 0x15, 0x18, 0x1E, 0x29, 0x33, 0x55, 0x65]) := by
  rw [← unrecognized_decodeFamily0, ← unrecognized_decodeFamily8, ← unrecognized_decodeFamilyE,
    ← unrecognized_decodeFamilyF]
  have hlt := fieldOp_lt w
  interval_cases hop : fieldOp w <;> simp [decodeWord, hop]

/-! ### The obligations -/

/-- Settles O12: the two bytes join to the word, which decodes to its instruction. -/
theorem decodeOfEncodeIsTheInstruction : Obligations.DecodeOfEncodeIsTheInstruction := by
  intro i rest h
  simp only [encodeBytes, List.cons_append, List.nil_append, decodeBytes, wordOfBytes_highByte_lowByte,
    decodeWord_encode h]

/-- Settles O13: the decoder's answer accounts for the whole word. -/
theorem encodeOfDecodeIsTheWord : Obligations.EncodeOfDecodeIsTheWord := by
  intro w i h
  have hw := decodeWord_accountsFor w
  rwa [h] at hw

/-- Settles O14: a row of its own is its instruction's word; families 8, E and F select by the field that the format placed;
no meaning reads the low nibble of 5xy_ and 9xy_. -/
theorem familiesDispatchAsTheMapSays : Obligations.FamiliesDispatchAsTheMapSays := by
  have row {i : Instr} {n : Nat} (h : i.wf = true) (hn : encode i = BitVec.ofNat 16 n) :
      decodeWord (BitVec.ofNat 16 n) = .known i := (encodes_of_encode_eq h hn).1
  refine ⟨fun nnn => ⟨row rfl rfl, row rfl rfl, row rfl rfl, row rfl rfl⟩, fun x nn => ?_,
    fun x y n => row rfl (formatFR_eq_ofNat 0xD x y n), ⟨rfl, rfl, fun nnn hcls hret => ?_⟩, fun x y n => ?_,
    fun x nn => ?_, fun x nn => ?_, fun x y low => ?_⟩
  · exact ⟨row rfl (formatFI_eq_ofNat 0x3 x nn), row rfl (formatFI_eq_ofNat 0x4 x nn),
      row rfl (formatFI_eq_ofNat 0x6 x nn), row rfl (formatFI_eq_ofNat 0x7 x nn), row rfl (formatFI_eq_ofNat 0xC x nn)⟩
  · exact row (wf_sys.2 ⟨hcls, hret⟩) (congrArg (BitVec.ofNat 16) (by omega))
  · rw [← formatFR_eq_ofNat 0x8 x y n]
    fin_cases n <;> simp [decodeWord, decodeFamily8, fields_formatFR]
  · rw [← formatFI_eq_ofNat 0xE x nn]
    simp only [decodeWord, decodeFamilyE, fields_formatFI, Nat.reduceLT]
  · rw [← formatFI_eq_ofNat 0xF x nn]
    simp only [decodeWord, decodeFamilyF, fields_formatFI, Nat.reduceLT]
  · exact ⟨row rfl (formatFR_eq_ofNat 0x5 x y low), row rfl (formatFR_eq_ofNat 0x9 x y low), fun s => ⟨rfl, rfl⟩⟩

/-- Settles O15: a word below 0x1000 is one of family 0; the fields are the remainders of R82's list. -/
theorem unrecognizedWordsAreTheListedOnes : Obligations.UnrecognizedWordsAreTheListedOnes := by
  intro w
  have hop : w.toNat < 0x1000 ↔ fieldOp w = 0x0 := by
    simp only [fieldOp]
    omega
  rw [hop]
  exact unrecognized_decodeWord w

/-- Settles O16: each word by running the decoder on it. -/
theorem writtenOutWordsDecode : Obligations.WrittenOutWordsDecode := by
  unfold Obligations.WrittenOutWordsDecode
  decide

end Sys2Proof.Machine

/-! What a Cycle's execute phase and its end give field by field, what the host's other operations leave unchanged
(40_cycle.md), and the cycle family's obligations. -/

namespace Sys2Proof.Machine

/-! ### The execute phase -/

theorem mem_fieldsWritten_dt {c : Config} {i : Instr} (h : Field.dt ∈ fieldsWritten c i) : ∃ x, i = .ldDtVx x := by
  cases i <;> simp_all [fieldsWritten]

theorem mem_fieldsWritten_st {c : Config} {i : Instr} (h : Field.st ∈ fieldsWritten c i) : ∃ x, i = .ldStVx x := by
  cases i <;> simp_all [fieldsWritten]

theorem draws_not_mem_fieldsWritten (c : Config) (i : Instr) : Field.draws ∉ fieldsWritten c i := by
  cases i <;> simp [fieldsWritten]

section
variable {w : Word} {s u : State}

/-- A field that an execute phase without fault changes is PC or the cycle result, or its instruction writes it. -/
theorem runWord_sameData_or_written (hr : runWord w s = .next u) (hu : u.fault = none) {f : Field}
    (hf : f ∉ [Field.pc, Field.result]) : sameData f s u ∨ ∃ i, decodeWord w = .known i ∧ f ∈ fieldsWritten s.cfg i := by
  cases hd : decodeWord w with
  | unknown v =>
    rw [runWord_unknown hd] at hr
    obtain ⟨-, e⟩ | ⟨-, e⟩ := unknownWord_cases v s <;> obtain rfl := Host.Outcome.next.inj (e.symm.trans hr)
    · simp at hu
    · cases f <;> simp [sameData] at hf ⊢
  | known i =>
    rw [runWord_known hd] at hr
    obtain ⟨c, a, -, e⟩ | ⟨-, -, e⟩ | ⟨hn, -⟩ := exec_cases i s
    · obtain rfl := Host.Outcome.next.inj (e.symm.trans hr)
      simp at hu
    · exact absurd (e.symm.trans hr) (by simp)
    · by_cases hw : f ∈ fieldsWritten s.cfg i
      · exact .inr ⟨i, rfl, hw⟩
      · exact .inl (exec_changesOnly hn hr f (by simp_all))

theorem runWord_cfg (hr : runWord w s = .next u) (hu : u.fault = none) : u.cfg = s.cfg := by
  obtain h | ⟨i, -, hi⟩ := runWord_sameData_or_written hr hu (f := .cfg) (by decide)
  · exact h
  · exact absurd hi (cfg_not_mem_fieldsWritten s.cfg i)

theorem runWord_draws (hr : runWord w s = .next u) (hu : u.fault = none) : u.draws = s.draws := by
  obtain h | ⟨i, -, hi⟩ := runWord_sameData_or_written hr hu (f := .draws) (by decide)
  · exact h
  · exact absurd hi (draws_not_mem_fieldsWritten s.cfg i)

theorem runWord_dt_of_ne (hr : runWord w s = .next u) (hu : u.fault = none)
    (hne : ∀ x, decodeWord w ≠ .known (.ldDtVx x)) : u.dt = s.dt := by
  obtain h | ⟨i, hd, hi⟩ := runWord_sameData_or_written hr hu (f := .dt) (by decide)
  · exact h
  · obtain ⟨x, rfl⟩ := mem_fieldsWritten_dt hi
    exact absurd hd (hne x)

theorem runWord_st_of_ne (hr : runWord w s = .next u) (hu : u.fault = none)
    (hne : ∀ x, decodeWord w ≠ .known (.ldStVx x)) : u.st = s.st := by
  obtain h | ⟨i, hd, hi⟩ := runWord_sameData_or_written hr hu (f := .st) (by decide)
  · exact h
  · obtain ⟨x, rfl⟩ := mem_fieldsWritten_st hi
    exact absurd hd (hne x)

theorem runWord_ldDtVx_dt {x : RegIdx} (hr : runWord w s = .next u) (hd : decodeWord w = .known (.ldDtVx x)) :
    u.dt = s.reg x := by
  rw [runWord_known hd] at hr
  obtain rfl := Host.Outcome.next.inj hr
  rfl

theorem runWord_ldStVx_st {x : RegIdx} (hr : runWord w s = .next u) (hd : decodeWord w = .known (.ldStVx x)) :
    u.st = s.reg x := by
  rw [runWord_known hd] at hr
  obtain rfl := Host.Outcome.next.inj hr
  rfl

end

/-! ### The end of a cycle without fault -/

section
variable {u : State}

theorem endCycle_latches (h : u.fault = none) (w : Word) :
    (u.endCycle w).opcode = w ∧ (u.endCycle w).rnd = Config.randomByte u.draws ∧ (u.endCycle w).draws = u.draws + 1 := by
  rw [endCycle_of_ok h]
  cases u.cfg.timerMode <;> exact ⟨rfl, rfl, rfl⟩

theorem endCycle_timers_of_hostTick (h : u.fault = none) (hm : u.cfg.timerMode = .hostTick) (w : Word) :
    (u.endCycle w).dt = u.dt ∧ (u.endCycle w).st = u.st := by
  rw [endCycle_of_ok h, hm]
  exact ⟨rfl, rfl⟩

theorem endCycle_timers_of_perCycle (h : u.fault = none) (hm : u.cfg.timerMode = .perCycle) (w : Word) :
    (u.endCycle w).dt.toNat = u.dt.toNat - 1 ∧ (u.endCycle w).st.toNat = u.st.toNat - 1 := by
  rw [endCycle_of_ok h, hm]
  exact ⟨toNat_countDown u.dt, toNat_countDown u.st⟩

end

/-! ### A cycle by how it ends -/

section
variable {s t u : State}

/-- A cycle whose execute phase answers a next state ends there. -/
theorem step_of_runWord (h : s.fault = none) (hpc : s.pc.toNat + 1 < 4096) (hr : runWord s.fetchWord s = .next u) :
    step s = .next (u.endCycle s.fetchWord) :=
  (step_in h hpc).trans (runAndEnd_eq_next.2 ⟨u, hr, rfl⟩)

/-- A cycle without fault is an execute phase without fault and then the end of the cycle. -/
theorem step_good (h : s.fault = none) (hs : step s = .next t) (ht : t.fault = none) :
    ∃ u, runWord s.fetchWord s = .next u ∧ u.fault = none ∧ t = u.endCycle s.fetchWord := by
  by_cases hpc : s.pc.toNat + 1 < 4096
  · rw [step_in h hpc, runAndEnd_eq_next] at hs
    obtain ⟨u, hr, rfl⟩ := hs
    exact ⟨u, hr, (endCycle_fault u _).symm.trans ht, rfl⟩
  · obtain rfl := Host.Outcome.next.inj ((step_out h (by omega)).symm.trans hs)
    simp at ht

/-- A cycle that faults leaves the state before it with the fault latched (R182). -/
theorem step_faulting (h : s.fault = none) (hs : step s = .next t) (ht : t.fault ≠ none) :
    ∃ r, t = s.latchFault r := by
  cases step_cases hs with
  | faulted r h' => exact absurd (h'.symm.trans h) (by simp)
  | fetchFault | unknownFault | instrFault => exact ⟨_, rfl⟩
  | unknownSkipped w => exact absurd ((endCycle_fault (s.advance.setResult (.unknown w)) _).trans h) ht
  | ran i u _ _ _ _ _ hu => exact absurd ((endCycle_fault _ _).trans hu) ht

end

/-! ### The host's other operations -/

theorem ChangesOnly.refl (fs : List Field) (s : State) : ChangesOnly fs s s := by
  intro f _
  cases f <;> rfl

theorem setResult_changesOnly (s : State) (r : CycleResult) : ChangesOnly [.result] s (s.setResult r) := by
  intro f hf
  cases f <;> simp [sameData] at hf ⊢

theorem loadRom_changesOnly (s : State) (rom : List Byte) :
    ChangesOnly [.mem, .pc, .rnd, .draws] s (loadRom s rom).1 := by
  unfold loadRom
  split
  · exact .refl _ s
  · intro f hf
    cases f <;> simp [sameData, loadFitting] at hf ⊢

theorem timerTick_of_faulted {s : State} (h : s.fault ≠ none) : timerTick s = s := by
  obtain ⟨r, hr⟩ := Option.ne_none_iff_exists'.1 h
  simp [timerTick, hr]

theorem timerTick_of_ok {s : State} (h : s.fault = none) : timerTick s = s.timerDecrement := by
  simp [timerTick, h]

theorem timerTick_changesOnly (s : State) : ChangesOnly [.dt, .st] s (timerTick s) := by
  by_cases h : s.fault = none
  · rw [timerTick_of_ok h]
    intro f hf
    cases f <;> simp [sameData] at hf ⊢
  · rw [timerTick_of_faulted h]
    exact .refl _ s

theorem setKey_changesOnly (s : State) (k : Fin 16) (b : Bool) : ChangesOnly [.key] s (setKey s k b) := by
  intro f hf
  cases f <;> simp [sameData, setKey] at hf ⊢

theorem keyLevel_setKey (s : State) (k j : Fin 16) (b : Bool) :
    (setKey s k b).keyLevel j = if j = k then b else s.keyLevel j := by
  simp [setKey, Vector.getElem_set, Fin.ext_iff, eq_comm]

/-! ### The invariant through the host's operations -/

/-- The invariant reads memory and four more fields. -/
theorem inv_of_changesOnly {fs : List Field} {s t : State} (hc : ChangesOnly fs s t)
    (hfs : ∀ f ∈ [Field.sp, .cfg, .fault, .result], f ∉ fs) (hm : memWf t.mem = true) (h : s.Inv) : t.Inv := by
  obtain ⟨-, hsp, hcfg, hshown⟩ := h
  have esp : t.sp = s.sp := hc .sp (hfs _ (by decide))
  have ecfg : t.cfg = s.cfg := hc .cfg (hfs _ (by decide))
  have efault : t.fault = s.fault := hc .fault (hfs _ (by decide))
  have eresult : t.result = s.result := hc .result (hfs _ (by decide))
  have eshown : faultShown t = faultShown s := by simp only [faultShown, efault, eresult]
  exact ⟨hm, esp ▸ hsp, ecfg ▸ hcfg, eshown.trans hshown⟩

theorem resetBlock_inv {s : State} (h : s.Inv) : s.resetBlock.Inv := by
  obtain ⟨-, -, hcfg, -⟩ := h
  exact ⟨rfl, Nat.zero_le 16, hcfg, rfl⟩

theorem configWf_iff {c : Config} : configWf c = true ↔ c.fontBase + 80 ≤ c.programBase ∧ c.programBase < 4096 := by
  simp [configWf]

/-- Font and ROM both lie inside memory (R6, R201, R202). -/
theorem loadRom_memWf {s : State} (hm : memWf s.mem = true) (hcfg : configWf s.cfg = true) (rom : List Byte) :
    memWf (loadRom s rom).1.mem = true := by
  obtain ⟨hfont, hprogram⟩ := configWf_iff.1 hcfg
  have hlen : fontTable.length = 80 := rfl
  unfold loadRom
  split
  next => exact hm
  next hfits =>
    rw [maxRomSize, memSize] at hfits
    have hm' : memWf (memWriteBytes s.mem s.cfg.fontBase fontTable) = true :=
      memWf_memWriteBytes hm (by simp only [memSize]; omega)
    exact memWf_memWriteBytes hm' (by simp only [memSize]; omega)

theorem loadRom_inv {s : State} (h : s.Inv) (rom : List Byte) : (loadRom s rom).1.Inv := by
  have ⟨hm, _, hcfg, _⟩ := h
  exact inv_of_changesOnly (loadRom_changesOnly s rom) (by decide) (loadRom_memWf hm hcfg rom) h

theorem timerTick_inv {s : State} (h : s.Inv) : (timerTick s).Inv := by
  have hmem : (timerTick s).mem = s.mem := timerTick_changesOnly s .mem (by decide)
  exact inv_of_changesOnly (timerTick_changesOnly s) (by decide) (hmem ▸ h.1) h

theorem setKey_inv {s : State} (h : s.Inv) (k : Fin 16) (b : Bool) : (setKey s k b).Inv :=
  inv_of_changesOnly (setKey_changesOnly s k b) (by decide) h.1 h

/-- Every operation of the host completes and keeps the invariant. -/
theorem operate_inv {s : State} (h : s.Inv) (o : Operation) : ∃ t, operate o s = .next t ∧ t.Inv := by
  cases o with
  | reset => exact ⟨_, rfl, resetBlock_inv h⟩
  | load rom => exact ⟨_, rfl, loadRom_inv h rom⟩
  | cycle =>
    have ⟨_, hsp, _⟩ := h
    obtain ⟨t, ht⟩ := stepAlwaysAnswersANextState s hsp
    exact ⟨t, ht, stepKeepsInvariant s t h ht⟩
  | timerTick => exact ⟨_, rfl, timerTick_inv h⟩
  | setKey k b => exact ⟨_, rfl, setKey_inv h k b⟩

theorem runOps_cons_of_next {o : Operation} {s t : State} (h : operate o s = .next t) (rest : List Operation) :
    runOps (o :: rest) s = runOps rest t := by
  simp only [runOps, h]

/-! ### A faulted block -/

theorem result_of_faultShown {s : State} {r : FaultRecord} (h : s.fault = some r) (hshown : faultShown s = true) :
    s.result = some (.fault r) := by
  simp only [faultShown, h, Bool.and_eq_true, decide_eq_true_eq] at hshown
  exact hshown.1

theorem setResult_eq_self {s : State} {r : CycleResult} (h : s.result = some r) : s.setResult r = s := by
  rw [State.setResult, ← h]

/-! ### The framebuffer port -/

theorem length_framebufferPort (s : State) : (framebufferPort s).length = 2048 := by
  rw [framebufferPort, List.length_map, List.length_range, fbWidth, fbHeight]

/-- Cell (x, y) is at index y*64 + x (R102). -/
theorem getElem?_framebufferPort (s : State) {x y : Nat} (hx : x < 64) (hy : y < 32) :
    (framebufferPort s)[y * 64 + x]? = some (cellAt s.fb x y) := by
  have hk : y * 64 + x < fbWidth * fbHeight := by simp only [fbWidth, fbHeight]; omega
  have hcol : (y * 64 + x) % fbWidth = x := by simp only [fbWidth]; omega
  have hrow : (y * 64 + x) / fbWidth = y := by simp only [fbWidth]; omega
  rw [framebufferPort, List.getElem?_map, List.getElem?_range hk, Option.map_some, hcol, hrow]

theorem operate_fb {o : Operation} {s t : State} (hreset : o ≠ .reset) (hcycle : o ≠ .cycle)
    (h : operate o s = .next t) : t.fb = s.fb := by
  cases o with
  | reset => exact absurd rfl hreset
  | cycle => exact absurd rfl hcycle
  | load rom =>
    obtain rfl := Host.Outcome.next.inj h
    exact loadRom_changesOnly s rom .fb (by decide)
  | timerTick =>
    obtain rfl := Host.Outcome.next.inj h
    exact timerTick_changesOnly s .fb (by decide)
  | setKey k b =>
    obtain rfl := Host.Outcome.next.inj h
    exact setKey_changesOnly s k b .fb (by decide)

/-! ### The obligations -/

/-- Settles O10, by induction on the list of operations. -/
theorem everyHostSequenceKeepsInvariant : Obligations.EveryHostSequenceKeepsInvariant := by
  intro ops
  induction ops with
  | nil => exact fun s h => ⟨s, rfl, h⟩
  | cons o rest ih =>
    intro s h
    obtain ⟨t, hstep, ht⟩ := operate_inv h o
    rw [runOps_cons_of_next hstep]
    exact ih t ht

/-- Settles O4: both kinds of word are the execute phase, after which the end of the cycle adds nothing to a fault. -/
theorem cycleFollowsItsSequence : Obligations.CycleFollowsItsSequence := by
  intro s h
  refine ⟨fun hpc => ⟨_, step_out h hpc, rfl, rfl, (latchFault_changesOnly s _).keepsAllBut⟩, fun hpc u hword => ?_⟩
  have hr : runWord s.fetchWord s = .next u := by
    obtain ⟨w, hd, hu⟩ | ⟨i, hd, hu⟩ := hword
    · rwa [runWord_unknown hd]
    · rwa [runWord_known hd]
  have hstep := step_of_runWord h hpc hr
  constructor
  · intro hfault
    obtain ⟨r, hf⟩ := Option.ne_none_iff_exists'.1 hfault
    rwa [endCycle_of_fault hf] at hstep
  · intro hok
    obtain ⟨hopcode, hrnd, hdraws⟩ := endCycle_latches hok s.fetchWord
    exact ⟨_, hstep, hopcode, hrnd, hdraws, fun hm => endCycle_timers_of_hostTick hok hm _,
      fun hm => endCycle_timers_of_perCycle hok hm _, (endCycle_changesOnly u _).keepsAllBut⟩

/-- Settles O49: the execute phase moves a timer only by its own instruction, the end of the cycle only in PerCycle mode. -/
theorem cycleMovesTimersByMode : Obligations.CycleMovesTimersByMode := by
  intro s t h hs ht
  obtain ⟨u, hr, hu, rfl⟩ := step_good h hs ht
  rw [← runWord_cfg hr hu]
  constructor
  · intro hm
    obtain ⟨hdt, hst⟩ := endCycle_timers_of_hostTick hu hm s.fetchWord
    rw [hdt, hst]
    exact ⟨fun _ hd => runWord_ldDtVx_dt hr hd, fun _ hd => runWord_ldStVx_st hr hd, runWord_dt_of_ne hr hu,
      runWord_st_of_ne hr hu⟩
  · intro hm
    obtain ⟨hdt, hst⟩ := endCycle_timers_of_perCycle hu hm s.fetchWord
    rw [hdt, hst]
    exact ⟨fun _ hd => by rw [runWord_ldDtVx_dt hr hd], fun _ hd => by rw [runWord_ldStVx_st hr hd],
      fun hne => by rw [runWord_dt_of_ne hr hu hne], fun hne => by rw [runWord_st_of_ne hr hu hne]⟩

/-- Settles O54: a good cycle ends with both latches written, a faulting one with the state before it. -/
theorem goodCyclesLatchOpcodeAndRedrawRnd : Obligations.GoodCyclesLatchOpcodeAndRedrawRnd := by
  intro s t h hs
  constructor
  · intro ht
    obtain ⟨u, hr, hu, rfl⟩ := step_good h hs ht
    rw [← runWord_draws hr hu]
    exact endCycle_latches hu s.fetchWord
  · intro ht
    obtain ⟨r, rfl⟩ := step_faulting h hs ht
    exact ⟨rfl, rfl, rfl⟩

/-- Settles O3, by cases on what the instruction answers. -/
theorem stepRunsDecodedInstruction : Obligations.StepRunsDecodedInstruction := by
  intro s i h hpc hd
  have hrun : runWord s.fetchWord s = exec i s := runWord_known hd s
  rw [step_in h hpc]
  cases he : exec i s <;> simp only [runAndEnd, hrun, he]

/-- Settles O5: the invariant says that the result already shows the latched record. -/
theorem faultedBlockIgnoresCycle : Obligations.FaultedBlockIgnoresCycle := by
  refine fun s r h => ⟨⟨_, step_faulted h, rfl, (setResult_changesOnly s _).keepsAllBut⟩, fun ⟨_, _, _, hshown⟩ => ?_⟩
  rw [step_faulted h, setResult_eq_self (result_of_faultShown h hshown)]

/-- Settles O50: an unfaulted tick counts both timers down; SetKey writes its own key. -/
theorem timerTickAndSetKey : Obligations.TimerTickAndSetKey := by
  intro s
  refine ⟨fun h => ⟨timerTick s, rfl, ?_⟩, fun h => congrArg _ (timerTick_of_faulted h), fun k b => ⟨_, rfl, ?_⟩⟩
  · have hdt : (timerTick s).dt.toNat = s.dt.toNat - 1 := by
      rw [timerTick_of_ok h]
      exact toNat_countDown s.dt
    have hst : (timerTick s).st.toNat = s.st.toNat - 1 := by
      rw [timerTick_of_ok h]
      exact toNat_countDown s.st
    exact ⟨fun _ => hdt, fun h0 => by omega, fun _ => hst, fun h0 => by omega, (timerTick_changesOnly s).keepsAllBut⟩
  · exact ⟨(keyLevel_setKey s k k b).trans (if_pos rfl), fun j hj => (keyLevel_setKey s k j b).trans (if_neg hj),
      (setKey_changesOnly s k b).keepsAllBut⟩

/-- Settles O53: the port reads the screen alone, which only Reset and Cycle change. -/
theorem framebufferPortAndSound : Obligations.FramebufferPortAndSound := by
  refine fun s => ⟨length_framebufferPort s, fun x y hx hy => getElem?_framebufferPort s hx hy,
    fun o t hreset hcycle h => ?_, decide_eq_true_iff⟩
  simp only [framebufferPort, operate_fb hreset hcycle h]

end Sys2Proof.Machine

/-! What jumps, skips, CALL, RET and SYS answer (41_flow.md), and the flow family's obligations. -/

namespace Sys2Proof.Machine

/-! ### Operands and stack entries -/

/-- An address field as a word is the same number (R112). -/
@[simp] theorem toNat_zext16 (nnn : Addr12) : (zext16 nnn).toNat = nnn.toNat := by
  have := nnn.isLt
  simp only [zext16, BitVec.toNat_ofNat]
  omega

/-- Adding V0 to an address field does not wrap (R119). -/
theorem toNat_jumpOffset (nnn : Addr12) (b : Byte) :
    (BitVec.ofNat 16 (nnn.toNat + b.toNat)).toNat = nnn.toNat + b.toNat := by
  have := nnn.isLt
  have := b.isLt
  rw [BitVec.toNat_ofNat]
  omega

/-- With an entry free, counting it as used does not wrap SP (R26). -/
theorem toNat_sp_add_one {s : State} (h : s.sp.toNat < 16) : (s.sp + 1).toNat = s.sp.toNat + 1 := by
  bv_omega

/-- A push changes its own entry and no other (R27). -/
theorem stackEntry_setStackEntry (s : State) {k : Nat} (hk : k < 16) (w : Word) (j : Nat) :
    (s.setStackEntry k w).stackEntry j = if j = k then some w else s.stackEntry j := by
  simp only [State.stackEntry_eq, State.setStackEntry_stack, dif_pos hk]
  by_cases hj : j = k
  · simp [hj, hk]
  · have hkj : k ≠ j := fun e => hj e.symm
    simp [hj, hkj]

/-- R110: the word of SYS is its address field. -/
theorem encode_sys (nnn : Addr12) : encode (.sys nnn) = BitVec.ofNat 16 nnn.toNat := by
  simp [encode, formatFA]

/-- Under NoOp SYS advances PC and reports its word (R110). -/
theorem exec_sys_of_noOp {s : State} (h : s.cfg.unknownOpcode = .noOp) (nnn : Addr12) :
    exec (.sys nnn) s = .next (s.advance.setResult (.unknown (encode (.sys nnn)))) := by
  simp [exec, execSys, unknownWord, h]

/-! ### Frames and faults as the statements name them -/

theorem ChangesOnly.mono {fs gs : List Field} {s t : State} (h : ChangesOnly fs s t) (hsub : fs ⊆ gs) :
    ChangesOnly gs s t :=
  fun f hf => h f fun hm => hf (hsub hm)

/-- The frame of an instruction that takes no fault, over any list that names the fields it writes. -/
theorem exec_keepsAllBut {i : Instr} {s u : State} {fs : List Field} (hn : ∀ c a, ¬ TakesFault s i c a)
    (he : exec i s = .next u) (hsub : .pc :: .result :: fieldsWritten s.cfg i ⊆ fs) : KeepsAllBut fs s u :=
  ((exec_changesOnly hn he).mono hsub).keepsAllBut

/-- An instruction that takes a fault leaves the state before it with the fault taken (R182). -/
theorem exec_tookFault {i : Instr} {s : State} {c : FaultCause} {a : Nat} (h : TakesFault s i c a) :
    ∃ t, exec i s = .next t ∧ TookFault c (encode i) a s t :=
  ⟨_, exec_of_takesFault h, rfl, rfl, (latchFault_changesOnly s _).keepsAllBut⟩

/-- A PC whose word leaves memory faults at the next fetch (R53). -/
theorem faultsAtNextFetch_of_pc {t : State} (h : 4094 < t.pc.toNat) : FaultsAtNextFetch t :=
  fun hf => ⟨_, _, step_out hf (by omega), rfl, rfl⟩

/-! ### Instructions that only set PC -/

theorem advance_setPc_keepsAllBut (s : State) (w : Word) : KeepsAllBut [.pc, .result] s (s.advance.setPc w) := by
  intro f hf
  apply sameField_of_sameData
  cases f <;> simp [sameData] at hf ⊢

/-- What an instruction that jumps to `w` answers (R112, R119). -/
theorem jump_answer {i : Instr} {s : State} {w : Word} {n : Nat} (he : exec i s = .next (s.advance.setPc w))
    (hw : w.toNat = n) :
    ∃ t, exec i s = .next t ∧ t.pc.toNat = n ∧ t.result = some .executed ∧ KeepsAllBut [.pc, .result] s t ∧
      (4094 < n → FaultsAtNextFetch t) :=
  ⟨_, he, hw, rfl, advance_setPc_keepsAllBut s w, fun hn => faultsAtNextFetch_of_pc (hn.trans_eq hw.symm)⟩

/-- What an instruction that skips on a condition answers (R111). -/
theorem skip_answer {i : Instr} {s : State} {c : Bool} {p : Word} (he : exec i s = .next (s.advance.skipIf c))
    (hp : (if c then s.pc + 4 else s.pc + 2) = p) :
    ∃ t, exec i s = .next t ∧ t.pc = p ∧ t.result = some .executed ∧ KeepsAllBut [.pc, .result] s t :=
  ⟨_, he, (skipPc_advanced c s.pc).trans hp, rfl, advance_setPc_keepsAllBut s _⟩

/-! ### The obligations -/

/-- Settles O23: RET pops the entry that CALL pushed. -/
theorem returnResumesAfterCall : Obligations.ReturnResumesAfterCall := by
  intro s t u nnn hsp hcall husp huentry
  obtain rfl := Host.Outcome.next.inj ((exec_call_ok hsp).symm.trans hcall)
  have husp1 : u.sp = s.sp + 1 := husp
  have hspNat : u.sp.toNat = s.sp.toNat + 1 := husp1 ▸ toNat_sp_add_one hsp
  have hpushed : u.stackEntry s.sp.toNat = some (s.pc + 2) :=
    huentry.trans ((stackEntry_setStackEntry s.advance hsp _ _).trans (if_pos rfl))
  obtain ⟨w, hw, hret⟩ := exec_ret_ok (s := u) (by omega) (by omega)
  rw [hspNat, Nat.add_sub_cancel, hpushed] at hw
  refine ⟨_, hret, (Option.some.inj hw).symm, ?_⟩
  rw [State.setPc_sp, State.setSp_sp, husp1, BitVec.add_sub_cancel]

/-- Settles O17, by the policy; no field is written under NoOp but PC and the result. -/
theorem sysFollowsThePolicy : Obligations.SysFollowsThePolicy := by
  refine fun nnn => ⟨fun hcls hret => encodes_of_encode_eq (wf_sys.2 ⟨hcls, hret⟩) (encode_sys nnn), fun s => ?_⟩
  rw [← encode_sys]
  refine ⟨fun hnoOp => ?_, fun hfault => exec_tookFault (.sys nnn hfault)⟩
  have hn : ∀ c a, ¬ TakesFault s (.sys nnn) c a := by
    rintro _ _ ⟨_, hfault⟩
    simp [hnoOp] at hfault
  have he := exec_sys_of_noOp hnoOp nnn
  exact ⟨_, he, rfl, rfl, exec_keepsAllBut hn he (by simp [fieldsWritten])⟩

/-- Settles O19: neither target wraps, and 0xFFF is past 4094. -/
theorem jumpsSetPc : Obligations.JumpsSetPc := by
  refine fun nnn => ⟨encodes_of_encode_eq rfl rfl, encodes_of_encode_eq rfl rfl, fun s => ⟨?_, ?_⟩⟩
  · obtain ⟨t, he, hpc, hresult, hkeeps, hnext⟩ := jump_answer (i := .jp nnn) (s := s) rfl (toNat_zext16 nnn)
    exact ⟨t, he, hpc, hresult, hkeeps, fun h => hnext (by rw [h]; decide)⟩
  · exact jump_answer rfl (toNat_jumpOffset nnn (s.reg 0))

/-- Settles O20, by whether an entry is free. -/
theorem callPushesAndJumps : Obligations.CallPushesAndJumps := by
  refine fun nnn => ⟨encodes_of_encode_eq rfl rfl, fun s => ⟨fun hsp => ?_, fun h => exec_tookFault (.call nnn h)⟩⟩
  have hn : ∀ c a, ¬ TakesFault s (.call nnn) c a := by
    rintro _ _ ⟨_, hfull⟩
    omega
  have hentry := stackEntry_setStackEntry s.advance hsp (s.pc + 2)
  exact ⟨_, exec_call_ok hsp, (hentry _).trans (if_pos rfl), fun k hk => (hentry k).trans (if_neg hk),
    toNat_sp_add_one hsp, toNat_zext16 nnn, rfl, exec_keepsAllBut hn (exec_call_ok hsp) (by simp [fieldsWritten])⟩

/-- Settles O21, by whether an entry is in use. -/
theorem returnPopsPc : Obligations.ReturnPopsPc := by
  refine ⟨encodes_of_encode_eq rfl rfl, fun s => ⟨fun h0 h16 => ?_, fun h => exec_tookFault (.ret h)⟩⟩
  have hn : ∀ c a, ¬ TakesFault s .ret c a := by
    rintro _ _ ⟨hempty⟩
    omega
  obtain ⟨w, hw, he⟩ := exec_ret_ok h0 h16
  exact ⟨_, he, hw, BitVec.toNat_sub_of_le h0, rfl, exec_keepsAllBut hn he (by simp [fieldsWritten])⟩

/-- Settles O24: the two skips take opposite conditions. -/
theorem immediateSkips : Obligations.ImmediateSkips := by
  refine fun x nn => ⟨encodes_of_encode_eq rfl (formatFI_eq_ofNat 0x3 x nn),
    encodes_of_encode_eq rfl (formatFI_eq_ofNat 0x4 x nn), fun s => ⟨skip_answer rfl ?_, skip_answer rfl ?_⟩⟩
  · simp only [decide_eq_true_eq]
  · simp only [decide_eq_true_eq, ite_not]

/-- Settles O25: the two skips take opposite conditions, and no meaning reads the low nibble. -/
theorem registerSkips : Obligations.RegisterSkips := by
  refine fun x y low => ⟨encodes_of_encode_eq rfl (formatFR_eq_ofNat 0x5 x y low),
    encodes_of_encode_eq rfl (formatFR_eq_ofNat 0x9 x y low), fun s => ⟨skip_answer rfl ?_, skip_answer rfl ?_⟩⟩
  · simp only [decide_eq_true_eq]
  · simp only [decide_eq_true_eq, ite_not]

end Sys2Proof.Machine

/-! What the register arithmetic and logic instructions answer (42_alu.md), and the ALU family's obligations. -/

namespace Sys2Proof.Machine

/-! ### The words of family 8 (R78) -/

theorem encodes_family8 {i : Instr} {x y : RegIdx} (n : Nibble) (h : i.wf = true) (hi : encode i = formatFR 0x8 x y n) :
    Encodes i (0x8000 + n.val + 256 * x.val + 16 * y.val) := by
  refine encodes_of_encode_eq h ?_
  rw [hi, formatFR_eq_ofNat]
  exact congrArg (BitVec.ofNat 16) (by omega)

/-! ### Results and flags as numbers (R130) -/

@[simp] theorem toNat_addFlag (a b : Byte) : (addFlag a b).toNat = if a.toNat + b.toNat > 255 then 1 else 0 := by
  simp only [addFlag, toNat_flagBit, decide_eq_true_eq]

@[simp] theorem toNat_subFlag (a b : Byte) : (subFlag a b).toNat = if a.toNat > b.toNat then 1 else 0 := by
  simp only [subFlag, toNat_flagBit, decide_eq_true_eq]

/-- The two's-complement wrap is the integer difference modulo 256. -/
theorem cast_toNat_subResult (a b : Byte) :
    ((subResult a b).toNat : Int) = ((a.toNat : Int) - (b.toNat : Int)) % 256 := by
  have := a.isLt
  have := b.isLt
  rw [toNat_subResult]
  omega

theorem toNat_shlFlag_eq_ite (a : Byte) : (shlFlag a).toNat = if 128 ≤ a.toNat then 1 else 0 := by
  have := a.isLt
  rw [toNat_shlFlag]
  split <;> omega

/-- An operand as FlagFirst reads it: the flag where it names VF (R131). -/
theorem toNat_readReg_writeReg_flag {b : Byte} {c : Nat} (hc : b.toNat = c) (v : RegFile) (y : RegIdx) :
    (readReg (writeReg v flagReg b) y).toNat = if y = 0xF then c else (readReg v y).toNat := by
  rw [readReg_writeReg, apply_ite BitVec.toNat, hc, flagReg]

/-! ### The source register of a shift (R141, R142) -/

theorem shiftReg_eq {c : Config} {x y src : RegIdx} (hx : c.shiftSource = .x → src = x)
    (hy : c.shiftSource = .y → src = y) : shiftReg c x y = src := by
  unfold shiftReg
  split
  next h => exact (hx h).symm
  next h => exact (hy h).symm

theorem shiftReg_congr {c d : Config} (h : d.shiftSource = c.shiftSource) (x y : RegIdx) :
    shiftReg d x y = shiftReg c x y := by
  simp only [shiftReg, h]

theorem shiftReg_ne_flag {c : Config} {x y : RegIdx} (hx : x ≠ flagReg) (hy : y ≠ flagReg) :
    shiftReg c x y ≠ flagReg := by
  unfold shiftReg
  split
  · exact hx
  · exact hy

/-! ### Instructions that write registers alone -/

theorem readReg_writeReg_same (v : RegFile) (x : RegIdx) (b : Byte) : readReg (writeReg v x b) x = b :=
  (readReg_writeReg v x x b).trans (if_pos rfl)

theorem advance_setRegs_wentOn (s : State) (v : RegFile) : WentOn [.v] s (s.advance.setRegs v) := by
  refine ⟨rfl, rfl, fun f hf => sameField_of_sameData ?_⟩
  cases f <;> simp [sameData] at hf ⊢

/-- What an instruction that writes its destination alone answers, for whatever `P` the value written gives. -/
theorem setReg_answer {i : Instr} {s : State} {x : RegIdx} {b : Byte} {P : State → Prop}
    (he : exec i s = .next (s.advance.setReg x b)) (hP : ∀ t, t.reg x = b → P t) :
    ∃ t, exec i s = .next t ∧ P t ∧ KeepsRegsBut [x] s t ∧ WentOn [.v] s t :=
  ⟨_, he, hP _ (readReg_writeReg_same s.v x b),
    fun _ hr => readReg_writeReg_of_ne (List.ne_of_not_mem_cons hr) s.v b, advance_setRegs_wentOn s _⟩

/-- What an instruction that writes its destination and the flag `c` by FlagOp answers, for whatever `L` and `F` its
result gives under FlagLast, from the old registers, and under FlagFirst, from those with the flag written (R131). -/
theorem flagOp_answer {i : Instr} {s : State} {x : RegIdx} {f g : RegFile → Byte} {c : Nat} {L F : State → Prop}
    (he : exec i s = .next (s.advance.setRegs (flagOp s.cfg.flagOrder x f g s.v))) (hc : (g s.v).toNat = c)
    (hL : ∀ t, t.reg x = f s.v → L t) (hF : ∀ t, t.reg x = f (writeReg s.v flagReg (g s.v)) → F t) :
    ∃ t, exec i s = .next t ∧ KeepsRegsBut [x, 0xF] s t ∧ WentOn [.v] s t ∧
      (s.cfg.flagOrder = .flagLast → (t.reg 0xF).toNat = c ∧ (x ≠ 0xF → L t)) ∧
      (s.cfg.flagOrder = .flagFirst → F t ∧ (x ≠ 0xF → (t.reg 0xF).toNat = c)) := by
  refine ⟨_, he, fun r hr => ?_, advance_setRegs_wentOn s _, fun ho => ?_, fun ho => ?_⟩
  · obtain ⟨hx, hf⟩ : r ≠ x ∧ r ≠ flagReg := by simpa [flagReg] using hr
    exact readReg_flagOp_of_ne hx hf _ f g s.v
  · have hreg (r : RegIdx) := readReg_flagOp_last x r f g s.v
    rw [ho]
    exact ⟨hc ▸ congrArg BitVec.toNat ((hreg 0xF).trans (if_pos rfl)),
      fun hx => hL _ ((hreg x).trans ((if_neg hx).trans (if_pos rfl)))⟩
  · have hreg (r : RegIdx) := readReg_flagOp_first x r f g s.v
    rw [ho]
    exact ⟨hF _ ((hreg x).trans (if_pos rfl)),
      fun hx => hc ▸ congrArg BitVec.toNat ((hreg 0xF).trans ((if_neg hx.symm).trans (if_pos rfl)))⟩

/-- What a subtraction of `Vq` from `Vp` answers (R139, R140): under FlagFirst an operand that names VF reads as the
flag. -/
theorem subtract_answer {i : Instr} {s : State} {x p q : RegIdx} {c : Nat}
    (he : exec i s = .next (s.advance.setRegs (flagOp s.cfg.flagOrder x
      (fun v => subResult (readReg v p) (readReg v q)) (fun v => subFlag (readReg v p) (readReg v q)) s.v)))
    (hc : c = if (s.reg p).toNat > (s.reg q).toNat then 1 else 0) :
    ∃ t, exec i s = .next t ∧ KeepsRegsBut [x, 0xF] s t ∧ WentOn [.v] s t ∧
      (s.cfg.flagOrder = .flagLast → (t.reg 0xF).toNat = c ∧
        (x ≠ 0xF → ((t.reg x).toNat : Int) = (((s.reg p).toNat : Int) - (s.reg q).toNat) % 256)) ∧
      (s.cfg.flagOrder = .flagFirst →
        ((t.reg x).toNat : Int) = (((if p = 0xF then c else (s.reg p).toNat : Nat) : Int) -
          (if q = 0xF then c else (s.reg q).toNat : Nat)) % 256 ∧ (x ≠ 0xF → (t.reg 0xF).toNat = c)) := by
  have hflag : (subFlag (s.reg p) (s.reg q)).toNat = c := (toNat_subFlag _ _).trans hc.symm
  refine flagOp_answer he hflag (fun t h => ?_) fun t h => ?_
  · rw [h, cast_toNat_subResult]
  · rw [h, cast_toNat_subResult, toNat_readReg_writeReg_flag hflag, toNat_readReg_writeReg_flag hflag]

/-! ### The flag orders (R131) -/

/-- The flag orders agree when the destination is not VF and the result does not read VF. -/
theorem flagOp_order_irrelevant {x : RegIdx} {f g : RegFile → Byte} {v : RegFile} (hx : x ≠ flagReg)
    (hf : f (writeReg v flagReg (g v)) = f v) (o : FlagOrder) : flagOp o x f g v = flagOp .flagLast x f g v := by
  cases o with
  | flagLast => rfl
  | flagFirst =>
    apply RegFile.ext_reads
    intro r
    rw [readReg_flagOp_first, readReg_flagOp_last, hf]
    by_cases hr : r = x
    · subst hr
      simp only [if_neg hx]
    · simp only [if_neg hr]

/-- Two blocks with equal registers that run the same FlagOp without VF end with equal registers. -/
theorem reg_eq_of_flagOp {i : Instr} {s s' t t' : State} {x : RegIdx} {f g : RegFile → Byte} (hv : s'.v = s.v)
    (he : exec i s = .next (s.advance.setRegs (flagOp s.cfg.flagOrder x f g s.v)))
    (he' : exec i s' = .next (s'.advance.setRegs (flagOp s'.cfg.flagOrder x f g s'.v)))
    (hx : x ≠ flagReg) (hf : ∀ b, f (writeReg s.v flagReg b) = f s.v) (ht : exec i s = .next t)
    (ht' : exec i s' = .next t') (r : RegIdx) : t'.reg r = t.reg r := by
  obtain rfl := Host.Outcome.next.inj (he.symm.trans ht)
  obtain rfl := Host.Outcome.next.inj (he'.symm.trans ht')
  simp only [State.reg_eq, State.setRegs_v, hv, flagOp_order_irrelevant hx (hf _)]

/-! ### The random latch (R96, R143) -/

/-- After a good cycle or a Load the latch is the byte that one drew. -/
theorem rnd_of_drawn {s t : State} (ht : t.fault = none)
    (h : s.fault = none ∧ step s = .next t ∨
      ∃ rom, rom.length ≤ maxRomSize s.cfg ∧ operate (.load rom) s = .next t) :
    t.rnd = Config.randomByte s.draws ∧ t.draws = s.draws + 1 := by
  obtain ⟨hs, hstep⟩ | ⟨rom, hfits, hload⟩ := h
  · exact ((goodCyclesLatchOpcodeAndRedrawRnd s t hs hstep).1 ht).2
  · obtain rfl := Host.Outcome.next.inj hload
    rw [loadRom, if_neg (Nat.not_lt.2 hfits)]
    exact ⟨rfl, rfl⟩

/-! ### The obligations -/

/-- Settles O27: the latch that RND reads is the previous draw; the end of its own cycle keeps the registers and draws
the next. -/
theorem randomAndImmediate : Obligations.RandomAndImmediate := by
  refine fun x nn => ⟨encodes_of_encode_eq rfl (formatFI_eq_ofNat 0xC x nn),
    fun s => setReg_answer rfl fun t h k _ => by rw [h, BitVec.getLsbD_and], fun s t ht hprev hpc hd => ?_⟩
  obtain ⟨hrnd, hdraws⟩ := rnd_of_drawn ht hprev
  obtain ⟨u, he, hreg, -, -, -, hkeeps⟩ :=
    setReg_answer (i := .rnd x nn) (s := t) (P := fun u => u.reg x = t.rnd &&& nn) rfl fun _ h => h
  have hfault : u.fault = none := (hkeeps .fault (by decide)).trans ht
  have hudraws : u.draws = t.draws := hkeeps .draws (by decide)
  have hstep := step_of_runWord ht hpc ((runWord_known hd t).trans he)
  have hkept : (u.endCycle t.fetchWord).reg x = u.reg x :=
    congrArg (readReg · x) (endCycle_changesOnly u _ .v (by decide))
  obtain ⟨-, hdrawn, -⟩ := endCycle_latches hfault t.fetchWord
  refine ⟨_, hstep, fun k _ => ?_, ?_⟩
  · rw [hkept, hreg, hrnd, BitVec.getLsbD_and]
  · rw [hdrawn, hudraws, hdraws]

/-- Settles O29: under FlagFirst an operand that names VF reads as the carry. -/
theorem addRegistersWithCarry : Obligations.AddRegistersWithCarry := by
  refine fun x y => ⟨encodes_family8 0x4 rfl rfl, ?_⟩
  rintro s _ _ c rfl rfl hc
  have hflag : (addFlag (s.reg x) (s.reg y)).toNat = c := (toNat_addFlag _ _).trans hc.symm
  refine flagOp_answer rfl hflag (fun t h => ?_) fun t h => ?_
  · rw [h, toNat_addResult]
  · rw [h, toNat_addResult, toNat_readReg_writeReg_flag hflag, toNat_readReg_writeReg_flag hflag]

/-- Settles O30: the subtraction of Vy from Vx. -/
theorem subtractWithStrictFlag : Obligations.SubtractWithStrictFlag := by
  refine fun x y => ⟨encodes_family8 0x5 rfl rfl, ?_⟩
  rintro s _ _ c rfl rfl hc
  exact subtract_answer rfl hc

/-- Settles O31: the subtraction of Vx from Vy. -/
theorem subtractReversedWithStrictFlag : Obligations.SubtractReversedWithStrictFlag := by
  refine fun x y => ⟨encodes_family8 0x7 rfl rfl, ?_⟩
  rintro s _ _ c rfl rfl hc
  exact subtract_answer rfl hc

/-- Settles O32: the shifted register is `src`, which under FlagFirst reads as the flag where it is VF. -/
theorem shiftRightByOne : Obligations.ShiftRightByOne := by
  refine fun x y => ⟨encodes_family8 0x6 rfl rfl, ?_⟩
  rintro s src _ hx hy rfl
  obtain rfl := shiftReg_eq hx hy
  have hflag := toNat_shrFlag (s.reg (shiftReg s.cfg x y))
  refine flagOp_answer rfl hflag (fun t h => ?_) fun t h => ?_
  · rw [h, toNat_shrResult]
  · rw [h, toNat_shrResult, toNat_readReg_writeReg_flag hflag]

/-- Settles O33: the shifted register is `src`, which under FlagFirst reads as the flag where it is VF. -/
theorem shiftLeftByOne : Obligations.ShiftLeftByOne := by
  refine fun x y => ⟨encodes_family8 0xE rfl rfl, ?_⟩
  rintro s src _ c hx hy rfl hc
  obtain rfl := shiftReg_eq hx hy
  have hflag := (toNat_shlFlag_eq_ite (s.reg (shiftReg s.cfg x y))).trans hc.symm
  refine flagOp_answer rfl hflag (fun t h => ?_) fun t h => ?_
  · rw [h, toNat_shlResult, Nat.mul_comm]
  · rw [h, toNat_shlResult, toNat_readReg_writeReg_flag hflag, Nat.mul_comm]

/-- Settles O34: each result reads x, y or the shift's source, none of which is VF. -/
theorem flagOrdersAgreeAwayFromVF : Obligations.FlagOrdersAgreeAwayFromVF := by
  intro s s' t t' x y i hx hy hi hreg hshift ht ht'
  have hv : s'.v = s.v := RegFile.ext_reads hreg
  have keeps {r : RegIdx} (hr : r ≠ flagReg) (b : Byte) : readReg (writeReg s.v flagReg b) r = readReg s.v r :=
    readReg_writeReg_of_ne hr s.v b
  have hsrc : shiftReg s.cfg x y ≠ flagReg := shiftReg_ne_flag hx hy
  simp only [List.mem_cons, List.not_mem_nil, or_false] at hi
  obtain rfl | rfl | rfl | rfl | rfl := hi
  case inr.inr.inr.inl =>
    exact reg_eq_of_flagOp hv rfl (by rw [exec, execShr, shiftReg_congr hshift]) hx
      (fun b => by rw [keeps hsrc]) ht ht'
  case inr.inr.inr.inr =>
    exact reg_eq_of_flagOp hv rfl (by rw [exec, execShl, shiftReg_congr hshift]) hx
      (fun b => by rw [keeps hsrc]) ht ht'
  all_goals exact reg_eq_of_flagOp hv rfl rfl hx (fun b => by rw [keeps hx, keeps hy]) ht ht'

/-- Settles O26: each writes its destination alone. -/
theorem immediateInstructions : Obligations.ImmediateInstructions := by
  refine fun x nn => ⟨encodes_of_encode_eq rfl (formatFI_eq_ofNat 0x6 x nn),
    encodes_of_encode_eq rfl (formatFI_eq_ofNat 0x7 x nn), fun s => ⟨?_, ?_⟩⟩
  · exact setReg_answer rfl fun _ h => h
  · exact setReg_answer rfl fun t h => by rw [h, toNat_addResult]

/-- Settles O28: each writes its destination alone, with the operation that acts bit by bit. -/
theorem moveAndBitwise : Obligations.MoveAndBitwise := by
  refine fun x y => ⟨encodes_family8 0x0 rfl rfl, encodes_family8 0x1 rfl rfl, encodes_family8 0x2 rfl rfl,
    encodes_family8 0x3 rfl rfl, fun s => ⟨?_, ?_, ?_, ?_⟩⟩
  · exact setReg_answer rfl fun _ h => h
  · exact setReg_answer rfl fun t h k _ => by rw [h, BitVec.getLsbD_or]
  · exact setReg_answer rfl fun t h k _ => by rw [h, BitVec.getLsbD_and]
  · exact setReg_answer rfl fun t h k _ => by rw [h, BitVec.getLsbD_xor]

end Sys2Proof.Machine

/-! What CLS and DRW answer, with the drawing loop related to the sprite's cells (43_display.md), and the display
family's obligations. -/

namespace Sys2Proof.Machine

/-! ### The cells of a sprite (R153 to R155) -/

/-- Row r of a block read as DRW reads its sprite (R154). -/
theorem getD_memReadBytes (s : State) (a : Nat) {k r : Nat} (hr : r < k) (b : Byte) :
    (memReadBytes s.mem a k).getD r b = s.byteAt (a + r) := by
  rw [List.getD_eq_getElem?_getD, getElem?_memReadBytes, if_pos hr, Option.getD_some]

/-- A sprite bit reaches the cell where it lands, if that is on the grid (R155). -/
theorem spriteBitAt_iff_landing {s : State} {x y : RegIdx} {r c cx cy : Nat} :
    SpriteBitAt s x y r c cx cy ↔ spriteBit (s.byteAt (s.index.toNat + r)) c = true ∧ cx < 64 ∧ cy < 32 ∧
      landing s.cfg.drawEdge (startColumn (s.reg x) + c) (startRow (s.reg y) + r) = (cx, cy) := by
  unfold SpriteBitAt
  cases s.cfg.drawEdge <;> simp only [spriteBit, landing, startColumn, startRow, Prod.mk.injEq, eq_comm]

/-- The cells that DRW plots are, on the grid, the ones the sprite covers. -/
theorem mem_spriteCells_iff_covers {s : State} {x y : RegIdx} {n : Nibble} {cx cy : Nat} :
    (cx, cy) ∈ spriteCells s.cfg.drawEdge (startColumn (s.reg x)) (startRow (s.reg y))
        (memReadBytes s.mem s.index.toNat n.val) ∧ cx < 64 ∧ cy < 32 ↔ SpriteCovers s x y n cx cy := by
  simp only [mem_spriteCells, length_memReadBytes, SpriteCovers, spriteBitAt_iff_landing]
  constructor
  · rintro ⟨⟨r, c, hr, hc, hbit, hland⟩, hx, hy⟩
    rw [getD_memReadBytes _ _ hr] at hbit
    exact ⟨r, c, hr, hc, hbit, hx, hy, hland⟩
  · rintro ⟨r, c, hr, hc, hbit, hx, hy, hland⟩
    rw [← getD_memReadBytes _ _ hr 0] at hbit
    exact ⟨⟨r, c, hr, hc, hbit, hland⟩, hx, hy⟩

/-- What a sprite covers depends on its bytes, its start position and the edge policy alone. -/
theorem spriteCovers_congr {s t : State} {x y : RegIdx} (hcfg : t.cfg = s.cfg) (hindex : t.index = s.index)
    (hmem : t.mem = s.mem) (hx : t.reg x = s.reg x) (hy : t.reg y = s.reg y) (n : Nibble) (cx cy : Nat) :
    SpriteCovers t x y n cx cy ↔ SpriteCovers s x y n cx cy := by
  simp only [SpriteCovers, SpriteBitAt, State.byteAt, hcfg, hindex, hmem, hx, hy]

/-! ### What drawing does (R151, R152) -/

section
variable (s : State) (x y : RegIdx) (n : Nibble)

/-- The cells of a sprite are distinct, so each is toggled once, and the collision tells whether one was lit. -/
theorem drawSprite_spec :
    (∀ cx cy, SpriteCovers s x y n cx cy → cellAt (drawSprite s x y n).1 cx cy = !cellAt s.fb cx cy) ∧
    (∀ cx cy, ¬ SpriteCovers s x y n cx cy → cellAt (drawSprite s x y n).1 cx cy = cellAt s.fb cx cy) ∧
    ((drawSprite s x y n).2 = true ↔ ∃ cx cy, SpriteCovers s x y n cx cy ∧ cellAt s.fb cx cy = true) := by
  have hn := n.isLt
  have hdistinct := nodup_spriteCells s.cfg.drawEdge (startColumn (s.reg x)) (startRow (s.reg y))
    (memReadBytes s.mem s.index.toNat n.val) (by rw [length_memReadBytes]; omega)
  obtain ⟨hcells, hflag⟩ := foldl_plot _ hdistinct (s.fb, false)
  simp only [← drawRows_eq] at hcells hflag
  refine ⟨fun cx cy hc => ?_, fun cx cy hc => ?_, hflag.trans ?_⟩
  · exact (hcells cx cy).trans (if_pos (mem_spriteCells_iff_covers.2 hc))
  · exact (hcells cx cy).trans (if_neg fun h => hc (mem_spriteCells_iff_covers.1 h))
  · simp only [← mem_spriteCells_iff_covers, Prod.exists, and_assoc, Bool.false_eq_true, false_or]

theorem reg_flag_drawAndFlag : (drawAndFlag s x y n).reg 0xF = flagBit (drawSprite s x y n).2 :=
  readReg_writeReg_same s.v flagReg _

/-- VF after a DRW is 1 exactly when a covered cell was lit (R152). -/
theorem reg_flag_drawAndFlag_eq_one :
    (drawAndFlag s x y n).reg 0xF = 1 ↔ ∃ cx cy, SpriteCovers s x y n cx cy ∧ cellAt s.fb cx cy = true := by
  obtain ⟨-, -, hcollides⟩ := drawSprite_spec s x y n
  rw [reg_flag_drawAndFlag, ← hcollides]
  cases (drawSprite s x y n).2 <;> decide

/-- VF after a DRW is 0 exactly when no covered cell was lit (R152). -/
theorem reg_flag_drawAndFlag_eq_zero :
    (drawAndFlag s x y n).reg 0xF = 0 ↔ ¬ ∃ cx cy, SpriteCovers s x y n cx cy ∧ cellAt s.fb cx cy = true := by
  obtain ⟨-, -, hcollides⟩ := drawSprite_spec s x y n
  rw [reg_flag_drawAndFlag, ← hcollides]
  cases (drawSprite s x y n).2 <;> decide

theorem keepsRegsBut_drawAndFlag : KeepsRegsBut [0xF] s (drawAndFlag s x y n) :=
  fun _ hr => readReg_writeReg_of_ne (List.mem_singleton.not.1 hr) s.v _

end

/-! ### The range check (R156) -/

section
variable {s : State} {n : Nibble} (h : n = 0 ∨ s.index.toNat + n.val ≤ 4096) (x y : RegIdx)
include h

theorem last_row_in_memory : n.val = 0 ∨ s.index.toNat + n.val - 1 < 4096 :=
  h.imp (congrArg Fin.val) fun hin => by omega

theorem exec_drw_of_inMemory : exec (.drw x y n) s = .next (drawAndFlag s x y n) :=
  exec_drw_ok (last_row_in_memory h)

theorem not_takesFault_drw_of_inMemory : ∀ c a, ¬ TakesFault s (.drw x y n) c a := by
  have := last_row_in_memory h
  rintro _ _ ⟨⟩
  omega

end

/-! ### The obligations -/

/-- Settles O36, by whether the sprite is in memory. -/
theorem drawTogglesTheSpriteCells : Obligations.DrawTogglesTheSpriteCells := by
  refine fun x y n => ⟨encodes_of_encode_eq rfl (formatFR_eq_ofNat 0xD x y n),
    fun s => ⟨fun hin => ?_, fun hn hout => ?_⟩⟩
  · obtain ⟨htoggled, hkept, -⟩ := drawSprite_spec s x y n
    have he := exec_drw_of_inMemory hin x y
    refine ⟨_, he, htoggled, hkept, (reg_flag_drawAndFlag_eq_one s x y n).2, fun hunlit => ?_,
      keepsRegsBut_drawAndFlag s x y n, rfl, rfl,
      exec_keepsAllBut (not_takesFault_drw_of_inMemory hin x y) he (List.Subset.refl _)⟩
    refine (reg_flag_drawAndFlag_eq_zero s x y n).2 ?_
    rintro ⟨cx, cy, hc, hlit⟩
    simp [hunlit cx cy hc] at hlit
  · have hpos : 0 < n.val := Nat.pos_of_ne_zero fun h => hn (Fin.ext h)
    rw [← formatFR_eq_ofNat 0xD x y n]
    exact exec_tookFault (.drw x y n hpos (by omega))

/-- Settles O37: the second draw covers the same cells, and finds each as the first left it. -/
theorem drawTwiceRestoresTheScreen : Obligations.DrawTwiceRestoresTheScreen := by
  intro s t u x y n hx hy hin ht hu
  obtain rfl := Host.Outcome.next.inj ((exec_drw_of_inMemory hin x y).symm.trans ht)
  obtain rfl := Host.Outcome.next.inj ((exec_drw_of_inMemory (s := drawAndFlag s x y n) hin x y).symm.trans hu)
  have hkeeps := keepsRegsBut_drawAndFlag s x y n
  have hsame : ∀ cx cy, SpriteCovers (drawAndFlag s x y n) x y n cx cy ↔ SpriteCovers s x y n cx cy :=
    spriteCovers_congr (s := s) (t := drawAndFlag s x y n) rfl rfl rfl (hkeeps x (List.mem_singleton.not.2 hx))
      (hkeeps y (List.mem_singleton.not.2 hy)) n
  obtain ⟨htoggled, hkept, -⟩ := drawSprite_spec s x y n
  obtain ⟨htoggled', hkept', -⟩ := drawSprite_spec (drawAndFlag s x y n) x y n
  refine ⟨fun cx cy => ?_, fun hblank => ?_⟩
  · by_cases hc : SpriteCovers s x y n cx cy
    · calc cellAt (drawSprite (drawAndFlag s x y n) x y n).1 cx cy
        _ = !cellAt (drawSprite s x y n).1 cx cy := htoggled' cx cy ((hsame cx cy).2 hc)
        _ = !!cellAt s.fb cx cy := congrArg not (htoggled cx cy hc)
        _ = cellAt s.fb cx cy := Bool.not_not _
    · exact (hkept' cx cy fun h => hc ((hsame cx cy).1 h)).trans (hkept cx cy hc)
  · have hlit : ∀ cx cy, SpriteCovers s x y n cx cy → cellAt (drawAndFlag s x y n).fb cx cy = true :=
      fun cx cy hc => (htoggled cx cy hc).trans (by rw [hblank, Bool.not_false])
    rw [reg_flag_drawAndFlag_eq_one]
    refine exists_congr fun cx => exists_congr fun cy => ?_
    rw [hsame]
    exact and_iff_left_of_imp (hlit cx cy)

/-- Settles O35: CLS replaces the screen with the blank one. -/
theorem clearDisplay : Obligations.ClearDisplay := by
  refine ⟨encodes_of_encode_eq rfl rfl, fun s => ⟨_, rfl, cellAt_blankScreen, rfl, rfl, ?_⟩⟩
  have hnofault : ∀ c a, ¬ TakesFault s .cls c a := by rintro _ _ ⟨⟩
  exact exec_keepsAllBut hnofault rfl (List.Subset.refl _)

end Sys2Proof.Machine

/-! What the index and memory instructions answer (44_index_memory.md), and the index and memory family's obligations. -/

namespace Sys2Proof.Machine

/-! ### Words and frames -/

/-- The word of an instruction of family F, as R80 and R76 write it. -/
theorem encode_familyF {i : Instr} {x : RegIdx} (nn : Byte) (h : encode i = formatFI 0xF x nn) :
    encode i = BitVec.ofNat 16 (0xF000 + nn.toNat + 256 * x.val) := by
  rw [h, formatFI_eq_ofNat]
  exact congrArg (BitVec.ofNat 16) (by omega)

/-- An instruction whose cycle result is Executed took no fault: a fault is what the result would report (R182). -/
theorem not_takesFault_of_executed {i : Instr} {s u : State} (he : exec i s = .next u)
    (hresult : u.result = some .executed) : ∀ c a, ¬ TakesFault s i c a := by
  intro c a hf
  obtain rfl := Host.Outcome.next.inj ((exec_of_takesFault hf).symm.trans he)
  simp at hresult

/-- An instruction that goes on to the next word changes beside PC and the result only the fields it writes. -/
theorem exec_wentOn {i : Instr} {s u : State} {fs : List Field} (he : exec i s = .next u) (hpc : u.pc = s.pc + 2)
    (hresult : u.result = some .executed) (hsub : fieldsWritten s.cfg i ⊆ fs) : WentOn fs s u :=
  ⟨hpc, hresult, exec_keepsAllBut (not_takesFault_of_executed he hresult) he
    (List.cons_subset_cons _ (List.cons_subset_cons _ hsub))⟩

/-- Dump and load write I only under the quirk (R164, R165). -/
theorem cons_index_if_subset (f : Field) (b : Bool) : (f :: if b then [Field.index] else []) ⊆ [f, .index] := by
  cases b <;> simp

/-! ### The glyph address (R162) -/

/-- R6's conditions keep a glyph's address from wrapping. -/
theorem toNat_glyphAddress {c : Config} (h : configWf c = true) (b : Byte) :
    (glyphAddress c b).toNat = c.fontBase + 5 * b.toNat := by
  obtain ⟨hfont, hprogram⟩ := configWf_iff.1 h
  have := b.isLt
  rw [glyphAddress, BitVec.toNat_ofNat]
  exact Nat.mod_eq_of_lt (by simp only [glyphBytes]; omega)

/-! ### Blocks of memory and of registers -/

section
variable {m : MemCells} {a : Nat} {bs : List Byte} (hm : memWf m = true) (ha : a + bs.length ≤ memSize)
include hm ha

theorem memRead_memWriteBytes_outside {k : Nat} (hk : k < a ∨ a + bs.length ≤ k) :
    memRead (memWriteBytes m a bs) k = memRead m k := by
  by_contra hne
  have := in_block_of_memWriteBytes_ne hm ha hne
  omega

theorem memRead_memWriteBytes_inside {j : Nat} {b : Byte} (hj : bs[j]? = some b) :
    memRead (memWriteBytes m a bs) (a + j) = b := by
  obtain ⟨hlt, -⟩ := List.getElem?_eq_some_iff.1 hj
  have hin : a ≤ a + j ∧ a + j < a + bs.length := by omega
  rw [memRead_memWriteBytes hm ha, if_pos hin, Nat.add_sub_cancel_left, List.getD_eq_getElem?_getD, hj, Option.getD_some]

theorem toNat_memRead_memWriteBytes {j d : Nat} (hj : bs[j]? = some (BitVec.ofNat 8 d)) (hd : d < 256) :
    (memRead (memWriteBytes m a bs) (a + j)).toNat = d := by
  rw [memRead_memWriteBytes_inside hm ha hj, BitVec.toNat_ofNat, Nat.mod_eq_of_lt hd]

end

/-- After a load from `a` register r holds byte `a + r`, or its old value above Vx (R165). -/
theorem readReg_loadBlock_memReadBytes (s : State) (a : Nat) (x r : RegIdx) :
    readReg (loadBlock s.v 0 (memReadBytes s.mem a (x.val + 1))) r =
      if r ≤ x then s.byteAt (a + r.val) else s.reg r := by
  split
  next h =>
    rw [readReg_loadBlock, if_pos (Nat.zero_le _), Nat.sub_zero]
    exact getD_memReadBytes s a (Nat.lt_succ_of_le h) _
  next h =>
    exact readReg_loadBlock_above (by simpa using h)

/-! ### The obligations -/

/-- Settles O39, by whether the three bytes are in memory. -/
theorem storeBcdDigits : Obligations.StoreBcdDigits := by
  intro x
  have hword : encode (.ldBVx x) = BitVec.ofNat 16 (0xF033 + 256 * x.val) := encode_familyF 0x33 rfl
  refine ⟨encodes_of_encode_eq rfl hword, fun s hm => ⟨fun hin => ?_, fun hout => ?_⟩⟩
  · have he := exec_ldBVx_ok (x := x) hin
    have hlen : s.index.toNat + (bcdDigits (s.reg x)).length ≤ memSize := hin
    have hbyte := (s.reg x).isLt
    have hread {j d : Nat} := toNat_memRead_memWriteBytes hm hlen (j := j) (d := d)
    exact ⟨_, he, exec_wentOn he rfl rfl (List.Subset.refl _), hread (j := 0) rfl (by omega), hread rfl (by omega),
      hread rfl (by omega), fun a ha => memRead_memWriteBytes_outside hm hlen ha⟩
  · exact hword ▸ exec_tookFault (.ldBVx x hout)

/-- Settles O40, by whether the block is in memory. -/
theorem registerDump : Obligations.RegisterDump := by
  intro x
  have hword : encode (.ldMemVx x) = BitVec.ofNat 16 (0xF055 + 256 * x.val) := encode_familyF 0x55 rfl
  refine ⟨encodes_of_encode_eq rfl hword, fun s hm => ⟨fun hin => ?_, fun hout => ?_⟩⟩
  · have he := exec_ldMemVx_ok hin
    have hlen : s.index.toNat + (regBlock s.v x).length ≤ memSize := by rwa [length_regBlock]
    refine ⟨_, he, exec_wentOn he rfl rfl (cons_index_if_subset _ _),
      fun r hr => memRead_memWriteBytes_regBlock s.v hm hin hr,
      fun a ha => memRead_memWriteBytes_outside hm hlen ?_, toNat_nextIndex s.cfg s.index x⟩
    rwa [length_regBlock]
  · exact hword ▸ exec_tookFault (.ldMemVx x hout)

/-- Settles O41, by whether the block is in memory. -/
theorem registerLoad : Obligations.RegisterLoad := by
  intro x
  have hword : encode (.ldVxMem x) = BitVec.ofNat 16 (0xF065 + 256 * x.val) := encode_familyF 0x65 rfl
  refine ⟨encodes_of_encode_eq rfl hword, fun s => ⟨fun hin => ?_, fun hout => ?_⟩⟩
  · have he := exec_ldVxMem_ok hin
    exact ⟨_, he, exec_wentOn he rfl rfl (cons_index_if_subset _ _),
      readReg_loadBlock_memReadBytes s s.index.toNat x, toNat_nextIndex s.cfg s.index x⟩
  · exact hword ▸ exec_tookFault (.ldVxMem x hout)

/-- Settles O42: the load reads at I + r, where the dump left Vr. -/
theorem loadAfterDumpRestoresRegisters : Obligations.LoadAfterDumpRestoresRegisters := by
  intro s t u v x hm hin hdump hbytes hindex hload r hr
  have huin : u.index.toNat + x.val < 4096 := by rwa [hindex]
  obtain rfl := Host.Outcome.next.inj ((exec_ldMemVx_ok hin).symm.trans hdump)
  obtain rfl := Host.Outcome.next.inj ((exec_ldVxMem_ok huin).symm.trans hload)
  calc readReg (loadBlock u.v 0 (memReadBytes u.mem u.index.toNat (x.val + 1))) r
    _ = u.byteAt (u.index.toNat + r.val) := (readReg_loadBlock_memReadBytes u _ x r).trans (if_pos hr)
    _ = u.byteAt (s.index.toNat + r.val) := by rw [hindex]
    _ = memRead (memWriteBytes s.mem s.index.toNat (regBlock s.v x)) (s.index.toNat + r.val) := hbytes _
    _ = s.reg r := memRead_memWriteBytes_regBlock s.v hm hin hr

/-- Settles O38: each writes I alone. -/
theorem indexInstructions : Obligations.IndexInstructions := by
  refine ⟨fun nnn => ⟨encodes_of_encode_eq rfl rfl, fun s => ?_⟩, fun x =>
    ⟨encodes_of_encode_eq rfl (encode_familyF 0x1E rfl), encodes_of_encode_eq rfl (encode_familyF 0x29 rfl),
      fun s => ⟨?_, ?_⟩⟩⟩
  · exact ⟨_, rfl, toNat_zext16 nnn, exec_wentOn (i := .ldI nnn) rfl rfl rfl (List.Subset.refl _)⟩
  · exact ⟨_, rfl, BitVec.toNat_ofNat _ _, exec_wentOn (i := .addIVx x) rfl rfl rfl (List.Subset.refl _)⟩
  · exact ⟨_, rfl, exec_wentOn (i := .ldFVx x) rfl rfl rfl (List.Subset.refl _),
      fun hcfg => toNat_glyphAddress hcfg (s.reg x)⟩

end Sys2Proof.Machine

/-! What the timer and keypad instructions answer and how a waiting block goes on (45_timers_keys.md), and the timers and keys
family's obligations. -/

namespace Sys2Proof.Machine

/-! ### Words in format FX -/

/-- The word of an instruction with a register and a fixed low byte, as R79, R80 and R76 write it. -/
theorem encodes_formatFI {i : Instr} {x : RegIdx} (op : Nat) (nn : Byte) (h : i.wf = true) (hi : encode i = formatFI op x nn) :
    Encodes i (op * 4096 + nn.toNat + 256 * x.val) := by
  refine encodes_of_encode_eq h ?_
  rw [hi, formatFI]
  exact congrArg (BitVec.ofNat 16) (by omega)

/-! ### The keypad (R171, R176) -/

theorem keyIndex_eq {b : Byte} {k : Fin 16} (h : k.val = b.toNat % 16) : keyIndex b = k :=
  Fin.ext h.symm

/-- What the scan for a pressed key asks of a key is that key's level. -/
theorem key_beq_pressed {s : State} {j : Nat} (hj : j < 16) : (s.key[j]? == some true) = s.keyLevel ⟨j, hj⟩ := by
  rw [Vector.getElem?_eq_getElem hj, Option.some_beq_some, beq_true]

theorem firstPressed_eq_some_of_least {s : State} {k : Fin 16} (hk : s.keyLevel k = true)
    (hlt : ∀ j : Fin 16, j < k → s.keyLevel j = false) : firstPressed s.key = some k.val := by
  refine List.find?_range_eq_some.2 ⟨(key_beq_pressed k.isLt).trans hk, List.mem_range.2 k.isLt, fun j hj => ?_⟩
  rw [key_beq_pressed (hj.trans k.isLt), hlt _ hj, Bool.not_false]

theorem firstPressed_eq_none {s : State} (h : ∀ k : Fin 16, s.keyLevel k = false) : firstPressed s.key = none := by
  refine List.find?_range_eq_none.2 fun j hj => ?_
  rw [key_beq_pressed hj, h, Bool.not_false]

/-! ### LD Vx, K (R176) -/

section
variable {s : State}

theorem exec_ldVxK_of_pressed {k : Nat} (h : firstPressed s.key = some k) (x : RegIdx) :
    exec (.ldVxK x) s = .next (s.advance.setReg x (BitVec.ofNat 8 k)) := by
  simp only [exec, execLdVxK, h]

/-- With no key pressed PC goes back over its own advance. -/
theorem exec_ldVxK_of_noKey (h : firstPressed s.key = none) (x : RegIdx) :
    exec (.ldVxK x) s = .next (s.advance.setPc s.pc) := by
  simp only [exec, execLdVxK, h, State.advance_pc, BitVec.add_sub_cancel]

end

theorem advance_setPc_self_changesOnly (s : State) : ChangesOnly [.result] s (s.advance.setPc s.pc) := by
  intro f hf
  cases f <;> simp [sameData] at hf ⊢

/-! ### Waiting (R204) -/

theorem waitingForKey_iff {s : State} :
    waitingForKey s = true ↔ s.fault = none ∧ s.pc.toNat + 1 < 4096 ∧
      (∃ x, decodeWord s.fetchWord = .known (.ldVxK x)) ∧ firstPressed s.key = none := by
  simp only [waitingForKey, Bool.and_eq_true, decide_eq_true_eq, and_assoc, memSize]
  split
  next x hd => simp [hd]
  next hne => exact iff_of_false (by simp) fun ⟨_, _, ⟨x, hd⟩, _⟩ => hne x hd

/-- Waiting looks at FAULT, PC, memory and the keypad alone. -/
theorem waitingForKey_of_changesOnly {fs : List Field} {s t : State} (hc : ChangesOnly fs s t)
    (hfs : .fault ∉ fs ∧ .pc ∉ fs ∧ .mem ∉ fs ∧ .key ∉ fs) (h : waitingForKey s = true) : waitingForKey t = true := by
  obtain ⟨hfault, hpc, hmem, hkey⟩ := hfs
  have hfault : t.fault = s.fault := hc .fault hfault
  have hpc : t.pc = s.pc := hc .pc hpc
  have hmem : t.mem = s.mem := hc .mem hmem
  have hkey : t.key = s.key := hc .key hkey
  simpa only [waitingForKey, State.fetchWord, State.byteAt_eq, hfault, hpc, hmem, hkey] using h

/-! ### The sound output (R104) -/

theorem soundOutput_iff {s : State} : soundOutput s = true ↔ s.st ≠ 0 := by
  rw [soundOutput, decide_eq_true_iff]
  bv_omega

/-! ### The obligations -/

/-- Settles O47, by whether a key is pressed. -/
theorem waitForKeyTakesTheLeastPressed : Obligations.WaitForKeyTakesTheLeastPressed := by
  refine fun x => ⟨encodes_formatFI 0xF 0x0A rfl rfl, fun s => ⟨fun k hk hlt => ?_, fun hnone => ?_⟩⟩
  · have he := exec_ldVxK_of_pressed (firstPressed_eq_some_of_least hk hlt) x
    exact setReg_answer he fun t h => by rw [h, BitVec.toNat_ofNat]; omega
  · exact ⟨_, exec_ldVxK_of_noKey (firstPressed_eq_none hnone) x, rfl, (advance_setPc_self_changesOnly s).keepsAllBut⟩

/-- Settles O48: the execute phase moves the result alone, and the end of the cycle nothing that waiting looks at. -/
theorem waitingBlockKeepsWaiting : Obligations.WaitingBlockKeepsWaiting := by
  intro s hw
  obtain ⟨hfault, hpc, ⟨x, hd⟩, hkey⟩ := waitingForKey_iff.1 hw
  have hrun := (runWord_known hd s).trans (exec_ldVxK_of_noKey hkey x)
  have hend := endCycle_changesOnly (s.advance.setPc s.pc) s.fetchWord
  have hc : ChangesOnly [.opcode, .rnd, .draws, .dt, .st, .result] s ((s.advance.setPc s.pc).endCycle s.fetchWord) :=
    fun f hf => (advance_setPc_self_changesOnly s f (by simp_all)).trans (hend f (by simp_all))
  exact ⟨_, step_of_runWord hfault hpc hrun, waitingForKey_of_changesOnly hc (by decide) hw, hend .result (by decide),
    hc.keepsAllBut, fun hmode => endCycle_timers_of_hostTick (u := s.advance.setPc s.pc) hfault hmode s.fetchWord⟩

/-- Settles O45: each move writes its destination alone. -/
theorem timerRegisterMoves : Obligations.TimerRegisterMoves := by
  refine fun x => ⟨encodes_formatFI 0xF 0x07 rfl rfl, encodes_formatFI 0xF 0x15 rfl rfl,
    encodes_formatFI 0xF 0x18 rfl rfl, fun s => ⟨?_, ?_, ?_⟩⟩
  · exact setReg_answer rfl fun _ h => h
  · exact ⟨_, rfl, rfl, exec_wentOn (i := .ldDtVx x) rfl rfl rfl (List.Subset.refl _)⟩
  · exact ⟨_, rfl, rfl, exec_wentOn (i := .ldStVx x) rfl rfl rfl (List.Subset.refl _), soundOutput_iff⟩

/-- Settles O46: the two skips take opposite conditions on the key named. -/
theorem keySkips : Obligations.KeySkips := by
  refine fun x => ⟨encodes_formatFI 0xE 0x9E rfl rfl, encodes_formatFI 0xE 0xA1 rfl rfl, fun s k hk => ?_⟩
  obtain rfl := keyIndex_eq hk
  refine ⟨skip_answer rfl rfl, skip_answer rfl ?_⟩
  cases s.keyLevel (keyIndex (s.reg x)) <;> rfl

end Sys2Proof.Machine

/-! When a Cycle takes a fault, what it records, and what an unrecognized word does (60_exceptions.md), and the exceptions
family's obligations. -/

namespace Sys2Proof.Machine

/-! ### The fault a cycle takes -/

/-- The causes that a Cycle of an unfaulted block raises from `s`: at the fetch, for an unknown word, or by the instruction's one
check (R180). -/
inductive CycleFaults (s : State) : FaultCause → Prop where
  | fetch (hpc : 4096 ≤ s.pc.toNat + 1) : CycleFaults s .fetchOutOfRange
  | unknown (w : Word) (hpc : s.pc.toNat + 1 < 4096) (hd : decodeWord s.fetchWord = .unknown w)
      (hc : s.cfg.unknownOpcode = .fault) : CycleFaults s .invalidOpcode
  | instr (i : Instr) (c : FaultCause) (a : Nat) (hpc : s.pc.toNat + 1 < 4096) (hd : decodeWord s.fetchWord = .known i)
      (hf : TakesFault s i c a) : CycleFaults s c

/-- The word a fault of this cause records: none has been fetched when the fetch faults (R182). -/
def faultWord (s : State) : FaultCause → Word
  | .fetchOutOfRange => 0
  | _ => s.fetchWord

/-- The address a fault of this cause records: the first that does not exist, of the fetch or of the data range (R52, R182). -/
def faultAddr (s : State) : FaultCause → Nat
  | .fetchOutOfRange => max s.pc.toNat 4096
  | .dataOutOfRange => max s.index.toNat 4096
  | _ => 0

/-- The record that a Cycle from `s` latches for a cause (R182). -/
def faultRecord (s : State) (c : FaultCause) : FaultRecord := ⟨c, s.pc, faultWord s c, faultAddr s c⟩

/-- An unknown word is reported as the word it was. -/
theorem eq_of_decodeWord_unknown {w u : Word} (hd : decodeWord w = .unknown u) : u = w := by
  have hw := decodeWord_accountsFor w
  rwa [hd] at hw

/-- The record of an instruction's fault. -/
theorem faultRecord_of_takesFault {s : State} {i : Instr} {c : FaultCause} {a : Nat}
    (hd : decodeWord s.fetchWord = .known i) (hf : TakesFault s i c a) : ⟨c, s.pc, encode i, a⟩ = faultRecord s c := by
  have hword : encode i = s.fetchWord := (encodeOfDecodeIsTheWord _ _ hd).1
  rw [hword]
  cases hf <;> rfl

section
variable {s t : State} {c : FaultCause}

/-- A cycle that raises a cause latches that cause's record over the state before it. -/
theorem step_of_cycleFaults (h : s.fault = none) (hc : CycleFaults s c) :
    step s = .next (s.latchFault (faultRecord s c)) := by
  have latched {r : FaultRecord} (hpc : s.pc.toNat + 1 < 4096) (hr : runWord s.fetchWord s = .next (s.latchFault r)) :
      step s = .next (s.latchFault r) := by
    rw [step_of_runWord h hpc hr, endCycle_of_fault rfl]
  cases hc with
  | fetch hpc => exact step_out h hpc
  | unknown w hpc hd hpolicy =>
    obtain rfl := eq_of_decodeWord_unknown hd
    refine latched hpc ((runWord_unknown hd s).trans ?_)
    simp only [unknownWord, hpolicy, takeFault, faultRecord, faultWord, faultAddr]
  | instr i _ a hpc hd hf =>
    rw [← faultRecord_of_takesFault hd hf]
    exact latched hpc ((runWord_known hd s).trans (exec_of_takesFault hf))

/-- A cycle that ends faulted raised a cause, and latched its record over the state before it. -/
theorem cycleFaults_of_step (h : s.fault = none) (hs : step s = .next t) (ht : t.fault ≠ none) :
    ∃ c, CycleFaults s c ∧ t = s.latchFault (faultRecord s c) := by
  cases step_cases hs with
  | faulted r h' => exact absurd (h'.symm.trans h) (by simp)
  | fetchFault _ hpc => exact ⟨_, .fetch hpc, rfl⟩
  | unknownFault w _ hpc hd hc =>
    obtain rfl := eq_of_decodeWord_unknown hd
    exact ⟨_, .unknown _ hpc hd hc, rfl⟩
  | instrFault i c a _ hpc hd hf => exact ⟨c, .instr i c a hpc hd hf, by rw [faultRecord_of_takesFault hd hf]⟩
  | unknownSkipped w => exact absurd ((endCycle_fault (s.advance.setResult (.unknown w)) _).trans h) ht
  | ran i u _ _ _ _ _ hu => exact absurd ((endCycle_fault _ _).trans hu) ht

/-- The record that a cycle latches is the one of a cause it raised. -/
theorem latched_record {r : FaultRecord} (h : s.fault = none) (hs : step s = .next t) (hr : t.fault = some r) :
    CycleFaults s r.cause ∧ r = faultRecord s r.cause := by
  obtain ⟨c, hc, rfl⟩ := cycleFaults_of_step h hs (by simp [hr])
  obtain rfl := Option.some.inj hr
  exact ⟨hc, rfl⟩

/-- A cycle latches exactly the causes it raises. -/
theorem latches_cause_iff (h : s.fault = none) (hs : step s = .next t) :
    (∃ r, t.fault = some r ∧ r.cause = c) ↔ CycleFaults s c := by
  constructor
  · rintro ⟨r, hr, rfl⟩
    exact (latched_record h hs hr).1
  · intro hc
    obtain rfl := Host.Outcome.next.inj ((step_of_cycleFaults h hc).symm.trans hs)
    exact ⟨_, rfl, rfl⟩

end

/-! ### The table of causes (R180), one line each -/

section
variable {s : State}

theorem cycleFaults_ne_romTooLarge {c : FaultCause} (hc : CycleFaults s c) : c ≠ .romTooLarge := by
  cases hc with
  | fetch | unknown => simp
  | instr i _ a hpc hd hf => exact hf.cause_ne_romTooLarge

theorem cycleFaults_fetchOutOfRange : CycleFaults s .fetchOutOfRange ↔ 4096 ≤ s.pc.toNat + 1 := by
  constructor
  · rintro (hpc | _ | ⟨_, _, _, _, _, hf⟩)
    · exact hpc
    · cases hf
  · exact .fetch

theorem cycleFaults_invalidOpcode :
    CycleFaults s .invalidOpcode ↔
      s.pc.toNat + 1 < 4096 ∧ s.cfg.unknownOpcode = .fault ∧ Unrecognized (decodeWord s.fetchWord) := by
  constructor
  · rintro (_ | ⟨w, hpc, hd, hc⟩ | ⟨_, _, _, hpc, hd, hf⟩)
    · exact ⟨hpc, hc, .inl ⟨w, hd⟩⟩
    · cases hf with
      | sys nnn hc => exact ⟨hpc, hc, .inr ⟨nnn, hd⟩⟩
  · rintro ⟨hpc, hc, ⟨w, hd⟩ | ⟨nnn, hd⟩⟩
    · exact .unknown w hpc hd hc
    · exact .instr _ _ _ hpc hd (.sys nnn hc)

theorem cycleFaults_stackOverflow :
    CycleFaults s .stackOverflow ↔
      s.pc.toNat + 1 < 4096 ∧ 16 ≤ s.sp.toNat ∧ ∃ nnn, decodeWord s.fetchWord = .known (.call nnn) := by
  constructor
  · rintro (_ | _ | ⟨_, _, _, hpc, hd, hf⟩)
    cases hf with
    | call nnn hsp => exact ⟨hpc, hsp, nnn, hd⟩
  · rintro ⟨hpc, hsp, nnn, hd⟩
    exact .instr _ _ _ hpc hd (.call nnn hsp)

theorem cycleFaults_stackUnderflow :
    CycleFaults s .stackUnderflow ↔
      s.pc.toNat + 1 < 4096 ∧ s.sp.toNat = 0 ∧ decodeWord s.fetchWord = .known .ret := by
  constructor
  · rintro (_ | _ | ⟨_, _, _, hpc, hd, hf⟩)
    cases hf with
    | ret hsp => exact ⟨hpc, hsp, hd⟩
  · rintro ⟨hpc, hsp, hd⟩
    exact .instr _ _ _ hpc hd (.ret hsp)

theorem cycleFaults_dataOutOfRange :
    CycleFaults s .dataOutOfRange ↔ s.pc.toNat + 1 < 4096 ∧
      ((∃ x y n, decodeWord s.fetchWord = .known (.drw x y n) ∧ 0 < n.val ∧ 4096 ≤ s.index.toNat + n.val - 1) ∨
       (∃ x, decodeWord s.fetchWord = .known (.ldBVx x) ∧ 4096 ≤ s.index.toNat + 2) ∨
       (∃ x, decodeWord s.fetchWord = .known (.ldMemVx x) ∧ 4096 ≤ s.index.toNat + x.val) ∨
       (∃ x, decodeWord s.fetchWord = .known (.ldVxMem x) ∧ 4096 ≤ s.index.toNat + x.val)) := by
  constructor
  · rintro (_ | _ | ⟨_, _, _, hpc, hd, hf⟩)
    cases hf with
    | drw x y n hn h => exact ⟨hpc, .inl ⟨x, y, n, hd, hn, h⟩⟩
    | ldBVx x h => exact ⟨hpc, .inr (.inl ⟨x, hd, h⟩)⟩
    | ldMemVx x h => exact ⟨hpc, .inr (.inr (.inl ⟨x, hd, h⟩))⟩
    | ldVxMem x h => exact ⟨hpc, .inr (.inr (.inr ⟨x, hd, h⟩))⟩
  · rintro ⟨hpc, ⟨x, y, n, hd, hn, h⟩ | ⟨x, hd, h⟩ | ⟨x, hd, h⟩ | ⟨x, hd, h⟩⟩
    · exact .instr _ _ _ hpc hd (.drw x y n hn h)
    · exact .instr _ _ _ hpc hd (.ldBVx x h)
    · exact .instr _ _ _ hpc hd (.ldMemVx x h)
    · exact .instr _ _ _ hpc hd (.ldVxMem x h)

end

/-- Load returns RomTooLarge exactly for a ROM that does not fit (R202). -/
theorem loadRom_refuses_iff (s : State) (rom : List Byte) :
    (loadRom s rom).2 = .romTooLarge ↔ rom.length > maxRomSize s.cfg := by
  unfold loadRom
  split
  next hbig => exact iff_of_true rfl hbig
  next hfits => exact iff_of_false (by simp) hfits

/-! ### An unrecognized word (R181) -/

/-- Both kinds of unrecognized word run as `unknownWord` of the word itself (R77, R110). -/
theorem runWord_of_unrecognized {w : Word} (h : Unrecognized (decodeWord w)) (s : State) :
    runWord w s = unknownWord w s := by
  obtain ⟨u, hd⟩ | ⟨nnn, hd⟩ := h
  · rw [runWord_unknown hd, eq_of_decodeWord_unknown hd]
  · have hword : encode (.sys nnn) = w := (encodeOfDecodeIsTheWord _ _ hd).1
    rw [runWord_known hd, exec, execSys, hword]

theorem advance_setResult_changesOnly (s : State) (r : CycleResult) :
    ChangesOnly [.pc, .result] s (s.advance.setResult r) := by
  intro f hf
  cases f <;> simp [sameData] at hf ⊢

/-- Under NoOp a cycle over an unrecognized word advances PC, reports the word and ends as a good cycle does. -/
theorem step_of_unrecognized_noOp {s : State} (h : s.fault = none) (hpc : s.pc.toNat + 1 < 4096)
    (hd : Unrecognized (decodeWord s.fetchWord)) (hnoOp : s.cfg.unknownOpcode = .noOp) :
    step s = .next ((s.advance.setResult (.unknown s.fetchWord)).endCycle s.fetchWord) := by
  refine step_of_runWord h hpc ?_
  rw [runWord_of_unrecognized hd, unknownWord, hnoOp]

/-- What such a cycle changes. -/
theorem skipped_changesOnly (s : State) (w : Word) :
    ChangesOnly [.pc, .result, .opcode, .rnd, .draws, .dt, .st] s ((s.advance.setResult (.unknown w)).endCycle w) :=
  fun f hf => (advance_setResult_changesOnly s _ f (by simp_all)).trans (endCycle_changesOnly _ w f (by simp_all))

/-! ### The obligations -/

/-- Settles O6: the state after the fault is the one before it with the cause's record latched. -/
theorem faultsArePrecise : Obligations.FaultsArePrecise := by
  intro s t h hs ht
  obtain ⟨c, -, rfl⟩ := cycleFaults_of_step h hs ht
  refine ⟨faultRecord s c, rfl, rfl, (latchFault_changesOnly s _).keepsAllBut, rfl, ?_, ?_, step_faulted rfl,
    congrArg _ (timerTick_of_faulted ht)⟩
  · cases c <;> rfl
  · cases c <;> rfl

/-- Settles O7: a cycle latches exactly the causes it raises, each by its own line of the table. -/
theorem onlyTheListedEventsFault : Obligations.OnlyTheListedEventsFault := by
  refine ⟨⟨rfl, rfl, rfl, rfl, rfl, rfl, rfl⟩,
    fun s rom => ⟨loadRom_refuses_iff s rom, loadRom_changesOnly s rom .fault (by decide)⟩, fun s t h hsp hs => ?_⟩
  simp only [latches_cause_iff h hs]
  refine ⟨fun r hr => ?_, cycleFaults_fetchOutOfRange, cycleFaults_invalidOpcode, ?_, cycleFaults_stackUnderflow,
    cycleFaults_dataOutOfRange⟩
  · obtain ⟨hc, hrecord⟩ := latched_record h hs hr
    have haddr : r.addr = faultAddr s r.cause := congrArg FaultRecord.addr hrecord
    rw [haddr]
    refine ⟨cycleFaults_ne_romTooLarge hc, ?_, fun hfetch => by rw [hfetch, faultAddr],
      fun hdata => by rw [hdata, faultAddr]⟩
    cases r.cause <;> simp [faultAddr]
  · have hfull : 16 ≤ s.sp.toNat ↔ s.sp.toNat = 16 := by omega
    rw [cycleFaults_stackOverflow, hfull]

/-- Settles O18: under Fault the cycle raises InvalidOpcode; under NoOp it advances, reports the word and ends as a good one. -/
theorem unknownWordFollowsThePolicy : Obligations.UnknownWordFollowsThePolicy := by
  intro s h hpc hd
  constructor
  · intro hfault
    have hc : CycleFaults s .invalidOpcode := cycleFaults_invalidOpcode.2 ⟨hpc, hfault, hd⟩
    exact ⟨_, step_of_cycleFaults h hc, rfl, rfl, (latchFault_changesOnly s _).keepsAllBut⟩
  · intro hnoOp
    have hu : (s.advance.setResult (.unknown s.fetchWord)).fault = none := h
    have hend := endCycle_changesOnly (s.advance.setResult (.unknown s.fetchWord)) s.fetchWord
    obtain ⟨-, hrnd, hdraws⟩ := endCycle_latches hu s.fetchWord
    exact ⟨_, step_of_unrecognized_noOp h hpc hd hnoOp, hend .pc (by decide), (endCycle_fault _ _).trans hu,
      hend .result (by decide), hrnd, hdraws, fun hm => endCycle_timers_of_perCycle hu hm _,
      fun hm => endCycle_timers_of_hostTick hu hm _, (skipped_changesOnly s s.fetchWord).keepsAllBut⟩

end Sys2Proof.Machine

/-! What Reset clears, what Load copies and refuses, and how a halted block goes on (70_reset_and_hazards.md), and the reset and
hazards family's obligations. -/

namespace Sys2Proof.Machine

/-! ### Reset (R37, R200) -/

/-- `State.reset` is itself a block after Reset. -/
theorem resetBlock_reset : State.reset.resetBlock = State.reset := rfl

theorem operate_reset_eq_next {s t : State} : operate .reset s = .next t ↔ t = s.resetBlock := by
  simp [operate, eq_comm]

theorem readReg_resetBlock (s : State) (r : RegIdx) : readReg s.resetBlock.v r = 0 := by
  simp [resetBlock_eq, State.reset, readReg]

theorem stackEntry_resetBlock (s : State) {k : Nat} (hk : k < 16) : s.resetBlock.stackEntry k = some 0 := by
  simp [resetBlock_eq, State.reset, hk]

theorem keyLevel_resetBlock (s : State) (k : Fin 16) : s.resetBlock.keyLevel k = false := by
  simp [resetBlock_eq, State.reset]

/-! ### Load (R201, R202) -/

/-- Byte j of a block just written (R56). -/
theorem memRead_memWriteBytes_getD {m : MemCells} {a j : Nat} {bs : List Byte} (hm : memWf m = true)
    (ha : a + bs.length ≤ memSize) (hj : j < bs.length) :
    memRead (memWriteBytes m a bs) (a + j) = bs.getD j 0 := by
  rw [memRead_memWriteBytes hm ha, if_pos ⟨by omega, by omega⟩, Nat.add_sub_cancel_left]

theorem loadRom_of_fits {s : State} {rom : List Byte} (h : rom.length ≤ maxRomSize s.cfg) :
    loadRom s rom = (loadFitting s rom, .ok) :=
  if_neg (Nat.not_lt.2 h)

theorem loadRom_of_tooLarge {s : State} {rom : List Byte} (h : rom.length > maxRomSize s.cfg) :
    loadRom s rom = (s, .romTooLarge) :=
  if_pos h

theorem length_fontTable : fontTable.length = 80 := rfl

theorem maxRomSize_add_programBase {c : Config} (h : configWf c = true) : maxRomSize c + c.programBase = 4096 := by
  obtain ⟨-, hprogram⟩ := configWf_iff.1 h
  exact Nat.sub_add_cancel hprogram.le

section
variable {s : State} {rom : List Byte} (hm : memWf s.mem = true) (hcfg : configWf s.cfg = true)
  (hfits : rom.length ≤ maxRomSize s.cfg)

include hcfg in
theorem fontTable_fits : s.cfg.fontBase + fontTable.length ≤ memSize := by
  obtain ⟨hfont, hprogram⟩ := configWf_iff.1 hcfg
  rw [length_fontTable, memSize]
  omega

include hm hcfg in
theorem memWf_fontWritten : memWf (memWriteBytes s.mem s.cfg.fontBase fontTable) = true :=
  memWf_memWriteBytes hm (fontTable_fits hcfg)

include hcfg hfits in
theorem rom_fits : s.cfg.programBase + rom.length ≤ memSize := by
  have := maxRomSize_add_programBase hcfg
  rw [memSize]
  omega

include hm hcfg hfits

/-- The font region lies below the ROM (R6), which therefore leaves it. -/
theorem byteAt_loadFitting_font {k : Nat} (hk : k < 80) :
    (loadFitting s rom).byteAt (s.cfg.fontBase + k) = fontTable.getD k 0 := by
  obtain ⟨hfont, -⟩ := configWf_iff.1 hcfg
  calc memRead (memWriteBytes (memWriteBytes s.mem s.cfg.fontBase fontTable) s.cfg.programBase rom) (s.cfg.fontBase + k)
    _ = memRead (memWriteBytes s.mem s.cfg.fontBase fontTable) (s.cfg.fontBase + k) :=
      memRead_memWriteBytes_outside (memWf_fontWritten hm hcfg) (rom_fits hcfg hfits) (.inl (by omega))
    _ = fontTable.getD k 0 := memRead_memWriteBytes_getD hm (fontTable_fits hcfg) hk

theorem byteAt_loadFitting_rom {k : Nat} (hk : k < rom.length) :
    (loadFitting s rom).byteAt (s.cfg.programBase + k) = rom.getD k 0 :=
  memRead_memWriteBytes_getD (memWf_fontWritten hm hcfg) (rom_fits hcfg hfits) hk

theorem byteAt_loadFitting_outside {a : Nat} (hfont : a < s.cfg.fontBase ∨ s.cfg.fontBase + 80 ≤ a)
    (hrom : a < s.cfg.programBase ∨ s.cfg.programBase + rom.length ≤ a) : (loadFitting s rom).byteAt a = s.byteAt a :=
  (memRead_memWriteBytes_outside (memWf_fontWritten hm hcfg) (rom_fits hcfg hfits) hrom).trans
    (memRead_memWriteBytes_outside hm (fontTable_fits hcfg) hfont)

end

/-- PROGRAM_BASE is below MEM_SIZE (R6), so PC holds it exactly. -/
theorem toNat_pc_loadFitting {s : State} (hcfg : configWf s.cfg = true) (rom : List Byte) :
    (loadFitting s rom).pc.toNat = s.cfg.programBase := by
  obtain ⟨-, hprogram⟩ := configWf_iff.1 hcfg
  exact (BitVec.toNat_ofNat _ _).trans (Nat.mod_eq_of_lt (by omega))

/-! ### The halted end (R204) -/

theorem haltedEnd_iff {s : State} :
    haltedEnd s = true ↔ s.fault = none ∧ s.pc.toNat + 1 < 4096 ∧ s.pc.toNat ≤ 0xFFF ∧
      s.fetchWord.toNat = 0x1000 + s.pc.toNat := by
  simp only [haltedEnd, Bool.and_eq_true, decide_eq_true_eq, and_assoc, memSize]

/-- The halted end looks at FAULT, PC and memory alone. -/
theorem haltedEnd_of_changesOnly {fs : List Field} {s t : State} (hc : ChangesOnly fs s t)
    (hfs : .fault ∉ fs ∧ .pc ∉ fs ∧ .mem ∉ fs) (h : haltedEnd s = true) : haltedEnd t = true := by
  obtain ⟨hfault, hpc, hmem⟩ := hfs
  have hfault : t.fault = s.fault := hc .fault hfault
  have hpc : t.pc = s.pc := hc .pc hpc
  have hmem : t.mem = s.mem := hc .mem hmem
  rw [haltedEnd_iff] at h ⊢
  simpa only [State.fetchWord, State.byteAt_eq, hfault, hpc, hmem] using h

/-- A word in 0x1000 to 0x1FFF is the jump to its low 12 bits (R76). -/
theorem decodeWord_jp {w : Word} {a : Nat} (hw : w.toNat = 0x1000 + a) (ha : a ≤ 0xFFF) :
    decodeWord w = .known (.jp (BitVec.ofNat 12 a)) := by
  have hword : w = encode (.jp (BitVec.ofNat 12 a)) := by
    apply BitVec.eq_of_toNat_eq
    simp only [hw, encode, formatFA, BitVec.toNat_ofNat]
    omega
  rw [hword, decodeWord_encode rfl]

/-- At the halted end the execute phase jumps back over its own advance (R112). -/
theorem runWord_haltedEnd {s : State} (h : haltedEnd s = true) :
    runWord s.fetchWord s = .next (s.advance.setPc s.pc) := by
  obtain ⟨-, -, hpc, hw⟩ := haltedEnd_iff.1 h
  have htarget : zext16 (BitVec.ofNat 12 s.pc.toNat) = s.pc := by
    apply BitVec.eq_of_toNat_eq
    rw [toNat_zext16, BitVec.toNat_ofNat]
    omega
  rw [runWord_known (decodeWord_jp hw hpc), exec, execJp, htarget]

/-- What a cycle changes whose execute phase leaves PC at its own address. -/
theorem stayed_changesOnly (s : State) (w : Word) :
    ChangesOnly [.opcode, .rnd, .draws, .dt, .st, .result] s ((s.advance.setPc s.pc).endCycle w) :=
  fun f hf => (advance_setPc_self_changesOnly s f (by simp_all)).trans (endCycle_changesOnly _ w f (by simp_all))

/-! ### The obligations -/

/-- Settles O51: the ROM is written over the font's memory, and the two regions are apart. -/
theorem loadCopiesFontAndRom : Obligations.LoadCopiesFontAndRom := by
  intro s rom hm hcfg hfits
  have hload := loadRom_of_fits hfits
  have hframe : ChangesOnly [.mem, .pc, .rnd, .draws] s (loadFitting s rom) := by
    simpa only [hload] using loadRom_changesOnly s rom
  exact ⟨loadFitting s rom, by rw [operate, hload], by rw [reply, hload],
    fun k hk => byteAt_loadFitting_font hm hcfg hfits hk, fun k hk => byteAt_loadFitting_rom hm hcfg hfits hk,
    fun a hfont hrom => byteAt_loadFitting_outside hm hcfg hfits hfont hrom, toNat_pc_loadFitting hcfg rom, rfl, rfl,
    hframe.keepsAllBut⟩

/-- Settles O60: the jump moves the result alone, and the end of the cycle nothing that the halted end looks at. -/
theorem haltedEndIsKept : Obligations.HaltedEndIsKept := by
  intro s h
  obtain ⟨hfault, hpc, -⟩ := haltedEnd_iff.1 h
  have hc := stayed_changesOnly s s.fetchWord
  exact ⟨_, step_of_runWord hfault hpc (runWord_haltedEnd h), haltedEnd_of_changesOnly hc (by decide) h, hc.keepsAllBut,
    fun hmode => endCycle_timers_of_hostTick (u := s.advance.setPc s.pc) hfault hmode s.fetchWord⟩

/-- Settles O1: both kinds of state are a `resetBlock`. -/
theorem resetClearsEveryPieceOfState : Obligations.ResetClearsEveryPieceOfState := by
  refine ⟨fun s => ⟨_, rfl, rfl⟩, fun t ht => ?_⟩
  obtain ⟨s, rfl⟩ : ∃ s : State, t = s.resetBlock := by
    obtain rfl | ⟨s, hs⟩ := ht
    · exact ⟨State.reset, resetBlock_reset.symm⟩
    · exact ⟨s, operate_reset_eq_next.1 hs⟩
  exact ⟨readReg_resetBlock s, rfl, rfl, rfl, fun _ hk => stackEntry_resetBlock s hk, rfl, rfl, fun _ => rfl,
    cellAt_blankScreen, keyLevel_resetBlock s, rfl, rfl, rfl⟩

/-- Settles O52: a ROM of MAX_ROM_SIZE bytes is one that fits, whose last byte the Load puts at 4095. -/
theorem oversizedRomChangesNothing : Obligations.OversizedRomChangesNothing := by
  refine fun s rom => ⟨maxRomSize_add_programBase, fun hbig => ?_, fun hfull hm hcfg => ?_⟩
  · have hload := loadRom_of_tooLarge hbig
    exact ⟨by rw [operate, hload], by rw [reply, hload]⟩
  · obtain ⟨t, hop, hreply, -, hrom, -⟩ := loadCopiesFontAndRom s rom hm hcfg hfull.le
    obtain ⟨-, hprogram⟩ := configWf_iff.1 hcfg
    have hsize := maxRomSize_add_programBase hcfg
    have hlast : s.cfg.programBase + (rom.length - 1) = 4095 := by omega
    exact ⟨t, hop, hreply, hlast ▸ hrom (rom.length - 1) (by omega)⟩

end Sys2Proof.Machine
